-- ==== Sys2Proof/Word.lean ====
section
/-! DEFINITION. The one word type of the machine. -/

namespace Sys2Proof

/-- Every architectural value is an unsigned 8-bit vector; all arithmetic on it is modulo 256
(00_scope.md R5 and R7). -/
abbrev Byte := BitVec 8

end Sys2Proof
end

