-- ==== Sys2Proof/Config.lean ====
section
/-! DEFINITION. What an implementation fixes and the spec leaves open.

The spec leaves ONE parameter open (00_scope.md R6, 92_eei_decisions.md D4). It leaves no result of an instruction
undefined, so no instruction needs a free value. -/

namespace Sys2Proof.Config

/-- LOAD_PAGE_ADVANCE: whether the host's program load moves to the next page when its offset wraps
(70_reset_and_hazards.md R207). It has no body: nothing can be proved of which value it is. Log entry 14. -/
opaque loadPageAdvance : Bool

end Sys2Proof.Config
end

