-- ==== Sys2Proof/Syntax.lean ====
section
/-! DEFINITION. The instruction set: one constructor per row of spec/opcode_table.json. -/

namespace Sys2Proof

/-- The four general registers A = 0, B = 1, C = 2, D = 3 (10_state.md R10). -/
inductive Reg where
  | a | b | c | d
deriving DecidableEq, Repr

/-- The 22 instructions (30_encoding.md R66, R77). The first register operand is always the one of instruction
bits 3-2, whatever the direction of data flow (30_encoding.md R75). -/
inductive Instr where
  /-- NOP: the single byte 0x00 (30_encoding.md R69). -/
  | nop
  /-- HALT. `ignored` is the two bits 3-2, which the Decoder ignores and the trace record still shows
  (30_encoding.md R70, R67); no meaning depends on them. Log entry 3. -/
  | halt (ignored : BitVec 2)
  | page (rd : Reg)
  | sub (rd rs : Reg)
  | load (rd rs : Reg)
  | store (rd rs : Reg)
  | skipz (rd : Reg)
  | skipnz (rd : Reg)
  | skipl (rd : Reg)
  | skipge (rd : Reg)
  | jalr (rd rs : Reg)
  | nand (rd rs : Reg)
  | add (rd rs : Reg)
  | inc (rd : Reg)
  | dec (rd : Reg)
  | out (rd : Reg)
  /-- IN (its mnemonic is a word of Lean's own grammar). -/
  | inp (rd : Reg)
  | jmpfar (rd rs : Reg)
  | push (rd : Reg)
  | pop (rd : Reg)
  | stackpage (rd : Reg)
  /-- SLI with its 4-bit immediate (30_encoding.md R64). -/
  | sli (rd : Reg) (imm : BitVec 4)
deriving DecidableEq, Repr

/-- The name the Decoder reports, without operands: one of 22 (30_encoding.md R67, R77). -/
inductive Variant where
  | nop | halt | page | sub | load | store | skipz | skipnz | skipl | skipge | jalr
  | nand | add | inc | dec | out | inp | jmpfar | push | pop | stackpage | sli
deriving DecidableEq, Repr

end Sys2Proof
end

