-- ==== Sys2Proof/WellFormed.lean ====
section
/-! DEFINITION. The checks the spec makes on what reaches the core: which bytes are instructions, and which host batches
are whole records.

A term of `Instr` needs no check of its own: a register operand is one of four names, the immediate has 4 bits, and the
spec excludes no operand value and no combination of operands (30_encoding.md R65, R71). -/

namespace Sys2Proof

/-- One row of the opcode map: a byte `b` is the instruction when `b AND mask = pattern` (30_encoding.md R66). -/
structure OpcodeRow where
  pattern : Byte
  mask : Byte
deriving DecidableEq, Repr

/-- The opcode map of 30_encoding.md R66, its match and mask columns. -/
def opcodeRow : Variant → OpcodeRow
  | .nop => ⟨0x00, 0xFF⟩
  | .halt => ⟨0x01, 0xF3⟩
  | .page => ⟨0x02, 0xF3⟩
  | .sub => ⟨0x10, 0xF0⟩
  | .load => ⟨0x20, 0xF0⟩
  | .store => ⟨0x30, 0xF0⟩
  | .skipz => ⟨0x40, 0xF3⟩
  | .skipnz => ⟨0x41, 0xF3⟩
  | .skipl => ⟨0x42, 0xF3⟩
  | .skipge => ⟨0x43, 0xF3⟩
  | .jalr => ⟨0x50, 0xF0⟩
  | .nand => ⟨0x60, 0xF0⟩
  | .add => ⟨0x70, 0xF0⟩
  | .inc => ⟨0x80, 0xF3⟩
  | .dec => ⟨0x81, 0xF3⟩
  | .out => ⟨0x82, 0xF3⟩
  | .inp => ⟨0x83, 0xF3⟩
  | .jmpfar => ⟨0x90, 0xF0⟩
  | .push => ⟨0xA0, 0xF3⟩
  | .pop => ⟨0xA1, 0xF3⟩
  | .stackpage => ⟨0xA2, 0xF3⟩
  | .sli => ⟨0xC0, 0xC0⟩

/-- The 22 variants, in the table's order. -/
def allVariants : List Variant :=
  [.nop, .halt, .page, .sub, .load, .store, .skipz, .skipnz, .skipl, .skipge, .jalr,
   .nand, .add, .inc, .dec, .out, .inp, .jmpfar, .push, .pop, .stackpage, .sli]

/-- Does byte `b` fit the row? -/
def OpcodeRow.fits (row : OpcodeRow) (b : Byte) : Bool := b &&& row.mask == row.pattern

/-- A byte is an instruction when some row of the map fits it; the other 27 are illegal (30_encoding.md R66, R68).
This reads the match/mask table; `decode` reads the field layout. The two are compared in the statements. -/
def isInstructionByte (b : Byte) : Bool := allVariants.any fun v => (opcodeRow v).fits b

/-- A write batch is whole when its length is a multiple of 3: page, address, value (60_exceptions.md R185). -/
def writeBatchWellFormed (batch : List Byte) : Bool := batch.length % 3 == 0

/-- A read batch is whole when its length is a multiple of 2: page, address (60_exceptions.md R187). -/
def readBatchWellFormed (batch : List Byte) : Bool := batch.length % 2 == 0

end Sys2Proof
end

