-- ==== Sys2Proof/Decode.lean ====
section
/-! DEFINITION. The Decoder, a pure total function of one byte (30_encoding.md R67), and the encoder written from the same
formats (30_encoding.md R62, R64). -/

namespace Sys2Proof

/-- The 2-bit index of a register: A = 0, B = 1, C = 2, D = 3 (10_state.md R10). -/
def Reg.index : Reg → BitVec 2
  | .a => 0
  | .b => 1
  | .c => 2
  | .d => 3

/-- The register a 2-bit index names (10_state.md R10). -/
def Reg.ofIndex (i : BitVec 2) : Reg :=
  match i.toNat with
  | 0 => .a
  | 1 => .b
  | 2 => .c
  | _ => .d

/-- Bits 7-4 (30_encoding.md R61). -/
def opcodeField (b : Byte) : BitVec 4 := b.extractLsb' 4 4

/-- Bits 3-2 (30_encoding.md R61). -/
def rdField (b : Byte) : BitVec 2 := b.extractLsb' 2 2

/-- Bits 1-0: a register index, a sub-opcode, or the low immediate bits (30_encoding.md R61, R63, R64). -/
def rsField (b : Byte) : BitVec 2 := b.extractLsb' 0 2

/-- The immediate: bits 5-4 above bits 1-0 (30_encoding.md R64). -/
def immField (b : Byte) : BitVec 4 := b.extractLsb' 4 2 ++ b.extractLsb' 0 2

/-- Which of the 22 instructions a byte is; `none` for the 27 illegal bytes (30_encoding.md R63, R67, R68). -/
def decodeVariant (b : Byte) : Option Variant :=
  if b.extractLsb' 6 2 = (0b11 : BitVec 2) then some .sli
  else if b = 0x00 then some .nop
  else
    match (opcodeField b).toNat with
    | 0x0 =>
      match (rsField b).toNat with
      | 1 => some .halt
      | 2 => some .page
      | _ => none
    | 0x1 => some .sub
    | 0x2 => some .load
    | 0x3 => some .store
    | 0x4 =>
      match (rsField b).toNat with
      | 0 => some .skipz
      | 1 => some .skipnz
      | 2 => some .skipl
      | _ => some .skipge
    | 0x5 => some .jalr
    | 0x6 => some .nand
    | 0x7 => some .add
    | 0x8 =>
      match (rsField b).toNat with
      | 0 => some .inc
      | 1 => some .dec
      | 2 => some .out
      | _ => some .inp
    | 0x9 => some .jmpfar
    | 0xA =>
      match (rsField b).toNat with
      | 0 => some .push
      | 1 => some .pop
      | 2 => some .stackpage
      | _ => none
    | _ => none

/-- The Decoder's outputs as a hardware block. The three fields are the raw bit slices of every byte, legal or not
(30_encoding.md R67, R78; 92_eei_decisions.md D20). -/
structure DecoderOutputs where
  variant : Option Variant
  illegal : Bool
  rd : BitVec 2
  rs : BitVec 2
  imm : BitVec 4
deriving DecidableEq, Repr

/-- The Decoder (30_encoding.md R67, R78). -/
def decoderOutputs (b : Byte) : DecoderOutputs where
  variant := decodeVariant b
  illegal := (decodeVariant b).isNone
  rd := rdField b
  rs := rsField b
  imm := immField b

/-- The instruction that a variant makes of the fields its format uses (30_encoding.md R62, R65). -/
def instrOf (v : Variant) (rd rs : BitVec 2) (imm : BitVec 4) : Instr :=
  match v with
  | .nop => .nop
  | .halt => .halt rd
  | .page => .page (Reg.ofIndex rd)
  | .sub => .sub (Reg.ofIndex rd) (Reg.ofIndex rs)
  | .load => .load (Reg.ofIndex rd) (Reg.ofIndex rs)
  | .store => .store (Reg.ofIndex rd) (Reg.ofIndex rs)
  | .skipz => .skipz (Reg.ofIndex rd)
  | .skipnz => .skipnz (Reg.ofIndex rd)
  | .skipl => .skipl (Reg.ofIndex rd)
  | .skipge => .skipge (Reg.ofIndex rd)
  | .jalr => .jalr (Reg.ofIndex rd) (Reg.ofIndex rs)
  | .nand => .nand (Reg.ofIndex rd) (Reg.ofIndex rs)
  | .add => .add (Reg.ofIndex rd) (Reg.ofIndex rs)
  | .inc => .inc (Reg.ofIndex rd)
  | .dec => .dec (Reg.ofIndex rd)
  | .out => .out (Reg.ofIndex rd)
  | .inp => .inp (Reg.ofIndex rd)
  | .jmpfar => .jmpfar (Reg.ofIndex rd) (Reg.ofIndex rs)
  | .push => .push (Reg.ofIndex rd)
  | .pop => .pop (Reg.ofIndex rd)
  | .stackpage => .stackpage (Reg.ofIndex rd)
  | .sli => .sli (Reg.ofIndex rd) imm

/-- What decoding a byte gives: an instruction, or the rejection that names the offending byte (30_encoding.md R67). -/
inductive DecodeResult where
  | legal (i : Instr)
  | illegalOpcode (byte : Byte)
deriving DecidableEq, Repr

/-- Decode one instruction byte (30_encoding.md R60, R67). -/
def decode (b : Byte) : DecodeResult :=
  match decodeVariant b with
  | some v => .legal (instrOf v (rdField b) (rsField b) (immField b))
  | none => .illegalOpcode b

/-- The instruction of a decode result, if there is one. -/
def DecodeResult.instr? : DecodeResult → Option Instr
  | .legal i => some i
  | .illegalOpcode _ => none

/-- The decoder on a row of the opcode table. Every instruction of this hardware is the one byte in bits 7-0
(30_encoding.md R60). -/
def decodeTableWord (_nbits w : Nat) : Option Instr := (decode (BitVec.ofNat 8 w)).instr?

/-- The variant of an instruction. -/
def Instr.variant : Instr → Variant
  | .nop => .nop
  | .halt _ => .halt
  | .page _ => .page
  | .sub _ _ => .sub
  | .load _ _ => .load
  | .store _ _ => .store
  | .skipz _ => .skipz
  | .skipnz _ => .skipnz
  | .skipl _ => .skipl
  | .skipge _ => .skipge
  | .jalr _ _ => .jalr
  | .nand _ _ => .nand
  | .add _ _ => .add
  | .inc _ => .inc
  | .dec _ => .dec
  | .out _ => .out
  | .inp _ => .inp
  | .jmpfar _ _ => .jmpfar
  | .push _ => .push
  | .pop _ => .pop
  | .stackpage _ => .stackpage
  | .sli _ _ => .sli

/-- Formats RR, RS and S: `[opcode:4][rd:2][rs or sub:2]` (30_encoding.md R61, R62). -/
def packFields (opcode : BitVec 4) (hi lo : BitVec 2) : Byte := opcode ++ hi ++ lo

/-- Format I: `11`, imm[3:2], rd, imm[1:0] (30_encoding.md R62, R64). -/
def packImmediate (rd : BitVec 2) (imm : BitVec 4) : Byte :=
  (0b11 : BitVec 2) ++ imm.extractLsb' 2 2 ++ rd ++ imm.extractLsb' 0 2

/-- The byte of an instruction (30_encoding.md R62, R64, R66). -/
def encode : Instr → Byte
  | .nop => packFields 0x0 0 0
  | .halt ignored => packFields 0x0 ignored 1
  | .page rd => packFields 0x0 rd.index 2
  | .sub rd rs => packFields 0x1 rd.index rs.index
  | .load rd rs => packFields 0x2 rd.index rs.index
  | .store rd rs => packFields 0x3 rd.index rs.index
  | .skipz rd => packFields 0x4 rd.index 0
  | .skipnz rd => packFields 0x4 rd.index 1
  | .skipl rd => packFields 0x4 rd.index 2
  | .skipge rd => packFields 0x4 rd.index 3
  | .jalr rd rs => packFields 0x5 rd.index rs.index
  | .nand rd rs => packFields 0x6 rd.index rs.index
  | .add rd rs => packFields 0x7 rd.index rs.index
  | .inc rd => packFields 0x8 rd.index 0
  | .dec rd => packFields 0x8 rd.index 1
  | .out rd => packFields 0x8 rd.index 2
  | .inp rd => packFields 0x8 rd.index 3
  | .jmpfar rd rs => packFields 0x9 rd.index rs.index
  | .push rd => packFields 0xA rd.index 0
  | .pop rd => packFields 0xA rd.index 1
  | .stackpage rd => packFields 0xA rd.index 2
  | .sli rd imm => packImmediate rd.index imm

end Sys2Proof
end

