-- ==== Sys2Proof/Machine/State.lean ====
section
/-! DEFINITION. The machine's state as plain data, its reset value, and the reasons a step could stop. -/

namespace Sys2Proof.Machine

/-- The register file: four 8-bit registers, none hard-wired (10_state.md R10). -/
structure Registers where
  a : Byte
  b : Byte
  c : Byte
  d : Byte
deriving DecidableEq, Repr

/-- The two fault causes (60_exceptions.md R170). -/
inductive FaultCause where
  /-- A cycle fetched one of the 27 illegal bytes (60_exceptions.md R171). -/
  | illegalOpcode
  /-- The console answered `Invalid` to an IN (60_exceptions.md R172). -/
  | invalidInput
deriving DecidableEq, Repr

/-- What the fault latch records: the cause, the byte fetched in the faulting cycle, and where it stands
(60_exceptions.md R175). -/
structure FaultRecord where
  cause : FaultCause
  byte : Byte
  codepage : Byte
  pc : Byte
deriving DecidableEq, Repr

/-- One answer of the console input (45_io.md R152). -/
inductive ConsoleAnswer where
  | byte (v : Byte)
  | invalid
deriving DecidableEq, Repr

/-- The register and page snapshot of a trace record (60_exceptions.md R188). -/
structure Snapshot where
  regs : Registers
  pc : Byte
  sp : Byte
  codepage : Byte
  datapage : Byte
  stackpage : Byte
  halted : Bool
deriving DecidableEq, Repr

/-- The record of one completed cycle (60_exceptions.md R188). The three fields are the Decoder's raw bit slices. -/
structure TraceRecord where
  variant : Variant
  rd : BitVec 2
  rs : BitVec 2
  imm : BitVec 4
  byte : Byte
  snapshot : Snapshot
deriving DecidableEq, Repr

/-- The memory: (index, cell) pairs, the index of cell `page:offset` being `256 * page + offset` (20_memory.md R40;
10_state.md R27). Its canonical form is `Memory.wf`. Log entry 21. -/
abbrev Memory := List Host.Cell

/-- All state of the core (10_state.md R10 to R28), and the host's three streams (10_state.md R32; log entry 1). -/
structure State where
  /-- A, B, C, D (10_state.md R10). -/
  regs : Registers
  /-- Program counter, an offset within the code page (10_state.md R13). -/
  pc : Byte
  /-- Stack pointer, an offset within the stack page (10_state.md R23). -/
  sp : Byte
  /-- The page of instruction fetch (10_state.md R19). -/
  codepage : Byte
  /-- The page of LOAD and STORE (10_state.md R20). -/
  datapage : Byte
  /-- The page of PUSH and POP (10_state.md R21). -/
  stackpage : Byte
  /-- Set by HALT, cleared by reset only (10_state.md R24). -/
  halted : Bool
  /-- The fault latch (10_state.md R25). -/
  fault : Option FaultRecord
  /-- 65,536 cells of 8 bits (10_state.md R27). -/
  mem : Memory
  /-- The model's own field: the answers the console input will give, next first (45_io.md R152). -/
  input : List ConsoleAnswer
  /-- The model's own field: the values OUT has sent, oldest first (45_io.md R151). -/
  output : List Byte
  /-- The model's own field: the trace records handed over, oldest first (60_exceptions.md R188). -/
  trace : List TraceRecord
deriving DecidableEq, Repr

/-- The machine right after reset (10_state.md R29; 70_reset_and_hazards.md R200): every register 0x00, `datapage`
0x01, nothing listed in memory (every cell reads 0x00), the latch empty. Log entries 1, 7, 8 and 9. -/
def State.reset : State where
  regs := ⟨0x00, 0x00, 0x00, 0x00⟩
  pc := 0x00
  sp := 0x00
  codepage := 0x00
  datapage := 0x01
  stackpage := 0x00
  halted := false
  fault := none
  mem := []
  input := []
  output := []
  trace := []

/-- Why a step could stop without a next state: never, so there is no constructor. The spec's two faults change state
(they set the latch) and are taken as next states (60_exceptions.md R175, R179); no memory access faults
(20_memory.md R55) and no arithmetic does (60_exceptions.md R174). Log entry 6. -/
inductive Fault where
deriving DecidableEq, Repr

/-- Why a step could be refused. -/
inductive Refusal where
  /-- Raised by `exec` alone, for an instruction with no meaning yet. Every instruction has its meaning, so nothing
  raises it. Safe: a refusal proves nothing about the hardware. -/
  | notModelled (mnemonic : String)
deriving DecidableEq, Repr

end Sys2Proof.Machine
end

