-- ==== Sys2Proof/Machine/Ops.lean ====
section
/-! DEFINITION. The named operations over registers, memory, run state, faults and the host's streams: everything a
meaning is made of. -/

namespace Sys2Proof.Machine

/-! ### Registers -/

/-- `x[r]` (00_scope.md R8). -/
def Registers.get (g : Registers) : Reg → Byte
  | .a => g.a
  | .b => g.b
  | .c => g.c
  | .d => g.d

/-- The register file with `x[r] <- v` (00_scope.md R8). -/
def Registers.set (g : Registers) (r : Reg) (v : Byte) : Registers :=
  match r with
  | .a => { g with a := v }
  | .b => { g with b := v }
  | .c => { g with c := v }
  | .d => { g with d := v }

/-- `x[r]` (00_scope.md R8). -/
def State.reg (s : State) (r : Reg) : Byte := s.regs.get r

/-- `x[r] <- v` (00_scope.md R8). -/
def State.setReg (s : State) (r : Reg) (v : Byte) : State := { s with regs := s.regs.set r v }

/-- `pc <- v`. -/
def State.setPc (s : State) (v : Byte) : State := { s with pc := v }

/-- `sp <- v`. -/
def State.setSp (s : State) (v : Byte) : State := { s with sp := v }

/-- `codepage <- v` (10_state.md R19). -/
def State.setCodepage (s : State) (v : Byte) : State := { s with codepage := v }

/-- `datapage <- v` (10_state.md R20). -/
def State.setDatapage (s : State) (v : Byte) : State := { s with datapage := v }

/-- `stackpage <- v` (10_state.md R21). -/
def State.setStackpage (s : State) (v : Byte) : State := { s with stackpage := v }

/-- `halted <- true`; no operation clears it (10_state.md R24). -/
def State.setHalted (s : State) : State := { s with halted := true }

/-! ### Memory -/

/-- What a cell that nothing has written reads as: the reset contents (10_state.md R29). Log entry 8. -/
def unwrittenByte : Byte := 0x00

/-- The index of cell `p:a` (20_memory.md R40). The page and the offset stay separate: no carry passes between them. -/
def cellIndex (p a : Byte) : Nat := 256 * p.toNat + a.toNat

/-- The cell at an index: the entries are in rising order, so the search ends at the first index above it. -/
def Memory.read : Memory → Nat → Byte
  | [], _ => unwrittenByte
  | (k, v) :: rest, n => if n < k then unwrittenByte else if n = k then v else Memory.read rest n

/-- The memory with cell `n` set to `v`. An entry equal to what an unlisted cell reads as is not listed. Dropping from
`rest` changes nothing in a memory of canonical form; it makes the read laws hold of every list. -/
def Memory.write : Memory → Nat → Byte → Memory
  | [], n, v => if v = unwrittenByte then [] else [(n, v)]
  | (k, w) :: rest, n, v =>
    if n < k then
      if v = unwrittenByte then (k, w) :: rest else (n, v) :: (k, w) :: rest
    else if n = k then
      if v = unwrittenByte then rest.dropWhile (fun e => decide (e.1 ≤ n)) else (n, v) :: rest
    else (k, w) :: Memory.write rest n v

/-- The canonical form from index `lo` on: strictly rising indices of the 65,536 cells, no entry that an unlisted cell
would read as anyway. -/
def Memory.wfFrom : Nat → Memory → Bool
  | _, [] => true
  | lo, (k, v) :: rest =>
    decide (lo ≤ k) && decide (k < 65536) && decide (v ≠ unwrittenByte) && Memory.wfFrom (k + 1) rest

/-- The canonical form of the memory: equal memories are equal lists. -/
def Memory.wf (m : Memory) : Bool := Memory.wfFrom 0 m

/-- `MemRead(p:a, 1)` (00_scope.md R8; 20_memory.md R41, R45, R55). -/
def State.memRead (s : State) (p a : Byte) : Byte := s.mem.read (cellIndex p a)

/-- `MemWrite(p:a, 1, v)` (00_scope.md R8; 20_memory.md R41, R45, R55). -/
def State.memWrite (s : State) (p a v : Byte) : State := { s with mem := s.mem.write (cellIndex p a) v }

/-- The fetch: `memory[CodePage][PC]` (70_reset_and_hazards.md R210 step 1). -/
def State.fetchByte (s : State) : Byte := s.memRead s.codepage s.pc

/-! ### Console -/

/-- `ConsoleOut(v)`: the 8 bits, unchanged (45_io.md R151). Log entry 16. -/
def State.consoleOut (s : State) (v : Byte) : State := { s with output := s.output ++ [v] }

/-- The console input has given its next answer (45_io.md R152). -/
def State.dropInput (s : State) : State := { s with input := s.input.tail }

/-! ### Completing a cycle -/

/-- Step 5, the write-back `PC = (PC + 1) mod 256` (10_state.md R16). It never touches `codepage` (10_state.md R17,
log entry 11). -/
def State.writeBack (s : State) : State := s.setPc (s.pc + 1)

/-- The register and page snapshot of the trace (60_exceptions.md R188). -/
def State.snapshot (s : State) : Snapshot where
  regs := s.regs
  pc := s.pc
  sp := s.sp
  codepage := s.codepage
  datapage := s.datapage
  stackpage := s.stackpage
  halted := s.halted

/-- The trace record of instruction `i` once the state is `s` (60_exceptions.md R188). The fetched byte is `encode i`:
no two bytes decode to one instruction (log entry 2). -/
def traceRecord (i : Instr) (s : State) : TraceRecord where
  variant := i.variant
  rd := rdField (encode i)
  rs := rsField (encode i)
  imm := immField (encode i)
  byte := encode i
  snapshot := s.snapshot

/-- Step 6, the trace record of the cycle (70_reset_and_hazards.md R210). -/
def State.emitTrace (s : State) (i : Instr) : State := { s with trace := s.trace ++ [traceRecord i s] }

/-- Steps 5 and 6 of a cycle whose execute step left the state `s`: write-back, then trace
(70_reset_and_hazards.md R210). Every instruction that neither faulted nor holds ends here. -/
def retire (i : Instr) (s : State) : Host.Outcome State Fault Refusal := .next (s.writeBack.emitTrace i)

/-! ### Faults -/

/-- TAKING A FAULT, the one shared operation: latch `(cause, byte, codepage, pc)` and change nothing else. No handler,
no vector, no saved state; the cycle ends before write-back and trace (60_exceptions.md R175, R176, R179). The spec gives
no return from a fault: only reset clears the latch (R180), see `State.reset`. Log entry 15. -/
def State.takeFault (s : State) (cause : FaultCause) (byte : Byte) : State :=
  { s with fault := some { cause := cause, byte := byte, codepage := s.codepage, pc := s.pc } }

/-- The numeric code of a cause (60_exceptions.md R170). 0 is not a cause. -/
def FaultCause.code : FaultCause → Nat
  | .illegalOpcode => 1
  | .invalidInput => 2

/-- A cycle that raises a fault ends with the latch set (60_exceptions.md R176). -/
def raiseFault (cause : FaultCause) (byte : Byte) (s : State) : Host.Outcome State Fault Refusal :=
  .next (s.takeFault cause byte)

/-- A cycle that cannot go on yet, or a core that runs no cycle: no state changes (45_io.md R155;
70_reset_and_hazards.md R211). Log entries 4 and 5. -/
def hold (s : State) : Host.Outcome State Fault Refusal := .next s

/-! ### Run state -/

/-- The three run states (70_reset_and_hazards.md R212). -/
inductive RunState where
  | running
  | halted
  | faulted
deriving DecidableEq, Repr

/-- The run state is a function of `halted` and the latch (70_reset_and_hazards.md R212). -/
def State.runState (s : State) : RunState :=
  if s.halted then .halted else if s.fault.isSome then .faulted else .running

/-- The run loop's test before each cycle: `halted = false and fault = None` (70_reset_and_hazards.md R211). -/
def State.canRun (s : State) : Bool := !s.halted && s.fault.isNone

end Sys2Proof.Machine
end

