-- ==== Sys2Proof/Machine/Operands.lean ====
section
/-! DEFINITION. Every operand form the spec gives (30_encoding.md R65): a register, the 4-bit immediate, register C as an
implied operand, and the offsets and addresses made of them (20_memory.md R48). -/

namespace Sys2Proof.Machine

/-- The 4-bit immediate as an 8-bit value, `zext_8(imm)` (30_encoding.md R64). -/
def immOperand (imm : BitVec 4) : Byte := imm.zeroExtend 8

/-- The implied page operand of JMPFAR: register C, whatever `rd` and `rs` are (10_state.md R12). -/
def State.farPage (s : State) : Byte := s.reg .c

/-- The return address of JALR and JMPFAR: `pc + 1`, `pc` being the offset of the jump itself (10_state.md R14). -/
def State.returnOffset (s : State) : Byte := s.pc + 1

/-- What a jump puts in `pc` so that the write-back lands on the target: target - 1 (44_jump.md R146). -/
def beforeTarget (target : Byte) : Byte := target - 1

/-- The page of the data access of LOAD and STORE (41_memory_ops.md R100). -/
def State.dataPageOf (s : State) : Byte := s.datapage

/-- The offset of the data access of LOAD and STORE: register `rs` (41_memory_ops.md R100). -/
def State.dataOffset (s : State) (rs : Reg) : Byte := s.reg rs

/-- The offset PUSH writes, and the new `sp`: `sp` after the decrement (20_memory.md R48; 46_stack.md R161). -/
def State.pushOffset (s : State) : Byte := s.sp - 1

/-- The offset POP reads: `sp` before the increment (20_memory.md R48; 46_stack.md R162). -/
def State.popOffset (s : State) : Byte := s.sp

/-- `sp` after a POP (46_stack.md R162). -/
def State.afterPop (s : State) : Byte := s.sp + 1

end Sys2Proof.Machine
end

