-- ==== Sys2Proof/Machine/Flags.lean ====
section
/-! DEFINITION. The hardware has no status flags (10_state.md R18): no instruction records carry, overflow, zero or sign.
What stands in their place is here: the results of the arithmetic (42_alu.md R110), which record nothing beside the 8-bit
result, and the conditions that the skips read from a register directly (43_skip.md R136). -/

namespace Sys2Proof.Machine

/-! ### Arithmetic results (42_alu.md R110) -/

/-- `(a + b) mod 256`. -/
def addResult (a b : Byte) : Byte := a + b

/-- `(a - b) mod 256`. -/
def subResult (a b : Byte) : Byte := a - b

/-- `255 - (a AND b)`, bit by bit. -/
def nandResult (a b : Byte) : Byte := ~~~(a &&& b)

/-- The low nibble moves up, the immediate enters below: `(a << 4) OR zext_8(imm)`. -/
def sliResult (a : Byte) (imm : BitVec 4) : Byte := (a <<< 4) ||| immOperand imm

/-! ### Skip conditions (43_skip.md R136) -/

/-- The register is 0x00. -/
def isZero (v : Byte) : Bool := v == 0x00

/-- Bit 7 is 1, treated as sign bit. -/
def isNegative (v : Byte) : Bool := v.getLsbD 7

end Sys2Proof.Machine
end

