-- ==== Sys2Proof/Machine/Alu.lean ====
section
/-! DEFINITION. SUB, NAND, ADD, INC, DEC, SLI (42_alu.md). -/

namespace Sys2Proof.Machine

/-- SUB: `x[rd] <- x[rd] - x[rs]` modulo 256 (42_alu.md R111). -/
def execSub (rd rs : Reg) (s : State) : Host.Outcome State Fault Refusal :=
  retire (.sub rd rs) (s.setReg rd (subResult (s.reg rd) (s.reg rs)))

/-- NAND: `x[rd] <- NOT8(x[rd] AND x[rs])` (42_alu.md R112). -/
def execNand (rd rs : Reg) (s : State) : Host.Outcome State Fault Refusal :=
  retire (.nand rd rs) (s.setReg rd (nandResult (s.reg rd) (s.reg rs)))

/-- ADD: `x[rd] <- x[rd] + x[rs]` modulo 256 (42_alu.md R113). -/
def execAdd (rd rs : Reg) (s : State) : Host.Outcome State Fault Refusal :=
  retire (.add rd rs) (s.setReg rd (addResult (s.reg rd) (s.reg rs)))

/-- INC: `x[rd] <- x[rd] + 1` modulo 256 (42_alu.md R114). -/
def execInc (rd : Reg) (s : State) : Host.Outcome State Fault Refusal :=
  retire (.inc rd) (s.setReg rd (addResult (s.reg rd) 1))

/-- DEC: `x[rd] <- x[rd] - 1` modulo 256 (42_alu.md R115). -/
def execDec (rd : Reg) (s : State) : Host.Outcome State Fault Refusal :=
  retire (.dec rd) (s.setReg rd (subResult (s.reg rd) 1))

/-- SLI: `x[rd] <- (x[rd] << 4) OR zext_8(imm)` (42_alu.md R116). -/
def execSli (rd : Reg) (imm : BitVec 4) (s : State) : Host.Outcome State Fault Refusal :=
  retire (.sli rd imm) (s.setReg rd (sliResult (s.reg rd) imm))

end Sys2Proof.Machine
end

