-- ==== Sys2Proof/Machine/Console.lean ====
section
/-! DEFINITION. OUT and IN (45_io.md). -/

namespace Sys2Proof.Machine

/-- OUT: hand `x[rd]` to the console output (45_io.md R153). -/
def execOut (rd : Reg) (s : State) : Host.Outcome State Fault Refusal :=
  retire (.out rd) (s.consoleOut (s.reg rd))

/-- IN: take one answer of the console input. `Byte(v)` goes to `x[rd]`; `Invalid` raises InvalidInput before
write-back, the answer consumed; while there is no answer the cycle holds (45_io.md R154, R155; 60_exceptions.md R172,
R176; log entries 4 and 15). -/
def execInp (rd : Reg) (s : State) : Host.Outcome State Fault Refusal :=
  match s.input with
  | .byte v :: _ => retire (.inp rd) (s.dropInput.setReg rd v)
  | .invalid :: _ => raiseFault .invalidInput (encode (.inp rd)) s.dropInput
  | [] => hold s

end Sys2Proof.Machine
end

