-- ==== Sys2Proof/Machine/DataMemory.lean ====
section
/-! DEFINITION. PAGE, LOAD, STORE (41_memory_ops.md). -/

namespace Sys2Proof.Machine

/-- PAGE: `datapage <- x[rd]` (41_memory_ops.md R101; 90_conflicts.md C2). -/
def execPage (rd : Reg) (s : State) : Host.Outcome State Fault Refusal :=
  retire (.page rd) (s.setDatapage (s.reg rd))

/-- LOAD: `x[rd] <- MemRead(datapage : x[rs], 1)` (41_memory_ops.md R102; 90_conflicts.md C6). -/
def execLoad (rd rs : Reg) (s : State) : Host.Outcome State Fault Refusal :=
  retire (.load rd rs) (s.setReg rd (s.memRead s.dataPageOf (s.dataOffset rs)))

/-- STORE: `MemWrite(datapage : x[rs], 1, x[rd])`, the true STORE (41_memory_ops.md R103; 93_implementation_defined.md
U6). -/
def execStore (rd rs : Reg) (s : State) : Host.Outcome State Fault Refusal :=
  retire (.store rd rs) (s.memWrite s.dataPageOf (s.dataOffset rs) (s.reg rd))

end Sys2Proof.Machine
end

