-- ==== Sys2Proof/Machine/Jump.lean ====
section
/-! DEFINITION. JALR and JMPFAR (44_jump.md). Both write the link register first; the later reads see the new value when
they name the same register (44_jump.md R143, 92_eei_decisions.md D8; log entry 12). -/

namespace Sys2Proof.Machine

/-- Both jumps end by setting `pc` to the target in `x[r]` minus 1, so that the write-back lands on it
(44_jump.md R146). -/
def State.jumpTo (s : State) (r : Reg) : State := s.setPc (beforeTarget (s.reg r))

/-- Both jumps begin by storing the return offset (44_jump.md R141, R142). -/
def State.link (s : State) (r : Reg) : State := s.setReg r s.returnOffset

/-- The far jump loads the code page from register C (44_jump.md R142, 92_eei_decisions.md D2; log entry 10). -/
def State.loadFarPage (s : State) : State := s.setCodepage s.farPage

/-- JALR: `x[rd] <- pc + 1`, then `pc <- x[rs] - 1` (44_jump.md R141). -/
def execJalr (rd rs : Reg) (s : State) : Host.Outcome State Fault Refusal :=
  retire (.jalr rd rs) ((s.link rd).jumpTo rs)

/-- JMPFAR: `x[rs] <- pc + 1`, then `codepage <- x[C]`, then `pc <- x[rd] - 1` (44_jump.md R142). -/
def execJmpfar (rd rs : Reg) (s : State) : Host.Outcome State Fault Refusal :=
  retire (.jmpfar rd rs) ((s.link rs).loadFarPage.jumpTo rd)

end Sys2Proof.Machine
end

