-- ==== Sys2Proof/Machine/NopHalt.lean ====
section
/-! DEFINITION. NOP and HALT (40_nop_halt.md). -/

namespace Sys2Proof.Machine

/-- NOP: nothing but the common end of the cycle (40_nop_halt.md R90). -/
def execNop (s : State) : Host.Outcome State Fault Refusal := retire .nop s

/-- HALT: set the halted flag; the cycle itself completes (40_nop_halt.md R91). -/
def execHalt (ignored : BitVec 2) (s : State) : Host.Outcome State Fault Refusal :=
  retire (.halt ignored) s.setHalted

end Sys2Proof.Machine
end

