-- ==== Sys2Proof/Machine/Skip.lean ====
section
/-! DEFINITION. SKIPZ, SKIPNZ, SKIPL, SKIPGE (43_skip.md). -/

namespace Sys2Proof.Machine

/-- The skip mechanism: a taken skip adds 1 to `pc`, and the write-back adds 1 more. The skipped cell is not read
(43_skip.md R130, R135). -/
def State.skipIf (s : State) (taken : Bool) : State := if taken then s.setPc (s.pc + 1) else s

/-- SKIPZ: skip when the register is zero (43_skip.md R131). -/
def execSkipz (rd : Reg) (s : State) : Host.Outcome State Fault Refusal :=
  retire (.skipz rd) (s.skipIf (isZero (s.reg rd)))

/-- SKIPNZ: skip when the register is not zero (43_skip.md R132). -/
def execSkipnz (rd : Reg) (s : State) : Host.Outcome State Fault Refusal :=
  retire (.skipnz rd) (s.skipIf (!isZero (s.reg rd)))

/-- SKIPL: skip when bit 7 is set (43_skip.md R133). -/
def execSkipl (rd : Reg) (s : State) : Host.Outcome State Fault Refusal :=
  retire (.skipl rd) (s.skipIf (isNegative (s.reg rd)))

/-- SKIPGE: skip when bit 7 is clear (43_skip.md R134). -/
def execSkipge (rd : Reg) (s : State) : Host.Outcome State Fault Refusal :=
  retire (.skipge rd) (s.skipIf (!isNegative (s.reg rd)))

end Sys2Proof.Machine
end

