-- ==== Sys2Proof/Machine/Stack.lean ====
section
/-! DEFINITION. PUSH, POP, STACKPAGE (46_stack.md). -/

namespace Sys2Proof.Machine

/-- PUSH: `sp <- sp - 1`, then `MemWrite(stackpage : sp, 1, x[rd])` (46_stack.md R161). -/
def execPush (rd : Reg) (s : State) : Host.Outcome State Fault Refusal :=
  retire (.push rd) ((s.setSp s.pushOffset).memWrite s.stackpage s.pushOffset (s.reg rd))

/-- POP: `x[rd] <- MemRead(stackpage : sp, 1)`, then `sp <- sp + 1` (46_stack.md R162). -/
def execPop (rd : Reg) (s : State) : Host.Outcome State Fault Refusal :=
  retire (.pop rd) ((s.setReg rd (s.memRead s.stackpage s.popOffset)).setSp s.afterPop)

/-- STACKPAGE: `stackpage <- x[rd]`; `sp` stays (46_stack.md R163). -/
def execStackpage (rd : Reg) (s : State) : Host.Outcome State Fault Refusal :=
  retire (.stackpage rd) (s.setStackpage (s.reg rd))

end Sys2Proof.Machine
end

