-- ==== Sys2Proof/Machine/Dispatch.lean ====
section
/-! DEFINITION. One arm per instruction: steps 3 to 6 of its cycle (70_reset_and_hazards.md R210). -/

namespace Sys2Proof.Machine

/-- The cycle of instruction `i` after fetch and decode, in a core that runs a cycle. -/
def exec (i : Instr) (s : State) : Host.Outcome State Fault Refusal :=
  match i with
  | .nop => Sys2Proof.Machine.execNop s
  | .halt ignored => Sys2Proof.Machine.execHalt ignored s
  | .page rd => Sys2Proof.Machine.execPage rd s
  | .sub rd rs => Sys2Proof.Machine.execSub rd rs s
  | .load rd rs => Sys2Proof.Machine.execLoad rd rs s
  | .store rd rs => Sys2Proof.Machine.execStore rd rs s
  | .skipz rd => Sys2Proof.Machine.execSkipz rd s
  | .skipnz rd => Sys2Proof.Machine.execSkipnz rd s
  | .skipl rd => Sys2Proof.Machine.execSkipl rd s
  | .skipge rd => Sys2Proof.Machine.execSkipge rd s
  | .jalr rd rs => Sys2Proof.Machine.execJalr rd rs s
  | .nand rd rs => Sys2Proof.Machine.execNand rd rs s
  | .add rd rs => Sys2Proof.Machine.execAdd rd rs s
  | .inc rd => Sys2Proof.Machine.execInc rd s
  | .dec rd => Sys2Proof.Machine.execDec rd s
  | .out rd => Sys2Proof.Machine.execOut rd s
  | .inp rd => Sys2Proof.Machine.execInp rd s
  | .jmpfar rd rs => Sys2Proof.Machine.execJmpfar rd rs s
  | .push rd => Sys2Proof.Machine.execPush rd s
  | .pop rd => Sys2Proof.Machine.execPop rd s
  | .stackpage rd => Sys2Proof.Machine.execStackpage rd s
  | .sli rd imm => Sys2Proof.Machine.execSli rd imm s

end Sys2Proof.Machine
end

