-- ==== Sys2Proof/Machine/Step.lean ====
section
/-! DEFINITION. One step of the machine inside a run: one cycle, or nothing when the core is Halted or Faulted. -/

namespace Sys2Proof.Machine

/-- One iteration of the run loop (70_reset_and_hazards.md R210, R211): test `halted` and the latch, fetch, decode, then
execute, or take the IllegalOpcode fault in the decode step. -/
def step (s : State) : Host.Outcome State Fault Refusal :=
  if s.canRun then
    match decode s.fetchByte with
    | .legal i => exec i s
    | .illegalOpcode byte => raiseFault .illegalOpcode byte s
  else hold s

/-- `s` with the instruction byte `w` placed in the cell the next step fetches. Every instruction is one byte
(30_encoding.md R60). It stands for the host's program load (log entry 20). -/
def State.withFetchWord (s : State) (_nbits w : Nat) : State := s.memWrite s.codepage s.pc (BitVec.ofNat 8 w)

end Sys2Proof.Machine
end

