-- ==== Sys2Proof/Machine/HostInterface.lean ====
section
/-! DEFINITION. The host's side of the control and memory interfaces (60_exceptions.md R181 to R187;
70_reset_and_hazards.md R200 to R208, R211). None of it is an instruction, and `step` uses none of it. -/

namespace Sys2Proof.Machine

/-- Errors of a host operation, reported to the host; none is a fault of the core and none touches the latch
(60_exceptions.md R173). -/
inductive HostError where
  /-- A write batch whose length is not a multiple of 3 (60_exceptions.md R185). -/
  | malformedWriteBatch
  /-- A read batch whose length is not a multiple of 2 (60_exceptions.md R187). -/
  | malformedReadBatch
  /-- A reset, a start, a memory access or a load while the core is inside a run (20_memory.md R53; log entry 18). -/
  | coreInRun
deriving DecidableEq, Repr

/-! ### Memory access -/

/-- PokeMemory: one cell, no selector involved (60_exceptions.md R184). -/
def State.poke (s : State) (p a v : Byte) : State := s.memWrite p a v

/-- PeekMemory: one cell (60_exceptions.md R186). -/
def State.peek (s : State) (p a : Byte) : Byte := s.memRead p a

/-- The triples of a write batch, in sequence order (60_exceptions.md R184). -/
def State.pokeAll (s : State) : List Byte → State
  | p :: a :: v :: rest => (s.poke p a v).pokeAll rest
  | _ => s

/-- ExecuteWriteMacro: the length is checked before any record is processed (60_exceptions.md R184, R185). -/
def State.writeMacro (s : State) (batch : List Byte) : Except HostError State :=
  if writeBatchWellFormed batch then .ok (s.pokeAll batch) else .error .malformedWriteBatch

/-- The pairs of a read batch, in sequence order (60_exceptions.md R186). -/
def State.peekAll (s : State) : List Byte → List Byte
  | p :: a :: rest => s.peek p a :: s.peekAll rest
  | _ => []

/-- ExecuteReadMacro: the values it reports; the length is checked first (60_exceptions.md R186, R187). -/
def State.readMacro (s : State) (batch : List Byte) : Except HostError (List Byte) :=
  if readBatchWellFormed batch then .ok (s.peekAll batch) else .error .malformedReadBatch

/-- The page that byte `i` of a program goes to, `p0` being `codepage` when the load starts
(70_reset_and_hazards.md R207). -/
def loadPage (advance : Bool) (p0 : Byte) (i : Nat) : Byte :=
  if advance then p0 + BitVec.ofNat 8 (i / 256) else p0

/-- The offset that byte `i` of a program goes to: `i mod 256` (70_reset_and_hazards.md R207). -/
def loadOffset (i : Nat) : Byte := BitVec.ofNat 8 i

/-- The bytes of a program from byte `i` on, written in order (70_reset_and_hazards.md R206, R207). -/
def State.loadFrom (advance : Bool) (p0 : Byte) : Nat → List Byte → State → State
  | _, [], s => s
  | i, b :: rest, s => State.loadFrom advance p0 (i + 1) rest (s.memWrite (loadPage advance p0 i) (loadOffset i) b)

/-- LoadProgram with the parameter LOAD_PAGE_ADVANCE given: from offset 0 of the current code page; `codepage` is the
same after as before (70_reset_and_hazards.md R206, R207). -/
def State.loadProgramWith (s : State) (advance : Bool) (program : List Byte) : State :=
  State.loadFrom advance s.codepage 0 program s

/-- LoadProgram of this implementation (90_conflicts.md C3; log entry 14). -/
def State.loadProgram (s : State) (program : List Byte) : State := s.loadProgramWith Config.loadPageAdvance program

/-! ### Control -/

/-- The host's reset: all state of the core goes to its reset value. The streams are the host's and stay
(70_reset_and_hazards.md R200; 60_exceptions.md R183; log entry 22). -/
def State.hostReset (s : State) : State :=
  { State.reset with input := s.input, output := s.output, trace := s.trace }

/-- The host makes further answers available to the console input, after those it has given (45_io.md R152). -/
def State.supplyInput (s : State) (answers : List ConsoleAnswer) : State := { s with input := s.input ++ answers }

/-- At most `k` cycles of the run loop, which ends when `halted` or the latch is set (70_reset_and_hazards.md R211). -/
def runLoop : Nat → State → Host.Outcome State Fault Refusal
  | 0, s => .next s
  | k + 1, s =>
    if s.canRun then
      match step s with
      | .next t => runLoop k t
      | .fault r => .fault r
      | .refused r => .refused r
    else .next s

/-- The core together with whether the host is inside a run (20_memory.md R53; 70_reset_and_hazards.md R212). The spec
gives the core no such register: it is the host's own knowledge (log entry 18). -/
structure Session where
  core : State
  inRun : Bool
deriving DecidableEq, Repr

/-- What a host may ask of the core (60_exceptions.md R182, R184 to R187; 70_reset_and_hazards.md R206). -/
inductive HostCommand where
  | reset
  | start
  | poke (p a v : Byte)
  | writeMacro (batch : List Byte)
  | peek (p a : Byte)
  | readMacro (batch : List Byte)
  | load (program : List Byte)
deriving DecidableEq, Repr

/-- Carry out a host command: the session after it and the bytes it reports, or its error. While the core is inside a
run every command is turned away: memory access and load by 20_memory.md R53 (D16), reset and start by the model's DESIGN
CHOICE (log entry 18). A start in Halted or Faulted begins no cycle
(70_reset_and_hazards.md R211). -/
def Session.command (x : Session) (c : HostCommand) : Except HostError (Session × List Byte) :=
  if x.inRun then .error .coreInRun
  else
    match c with
    | .reset => .ok ({ x with core := x.core.hostReset }, [])
    | .start => .ok ({ x with inRun := x.core.canRun }, [])
    | .poke p a v => .ok ({ x with core := x.core.poke p a v }, [])
    | .writeMacro batch =>
      match x.core.writeMacro batch with
      | .ok t => .ok ({ x with core := t }, [])
      | .error e => .error e
    | .peek p a => .ok (x, [x.core.peek p a])
    | .readMacro batch =>
      match x.core.readMacro batch with
      | .ok vs => .ok (x, vs)
      | .error e => .error e
    | .load program => .ok ({ x with core := x.core.loadProgram program }, [])

/-- One cycle of a run in progress; the run ends when `halted` or the latch is set (70_reset_and_hazards.md R211).
Outside a run the core is idle (R212). -/
def Session.cycle (x : Session) : Session :=
  if x.inRun then
    match step x.core with
    | .next t => { core := t, inRun := t.canRun }
    | .fault _ => x
    | .refused _ => x
  else x

/-- What the host can observe of the control interface: the run state, and the record of a latched fault
(60_exceptions.md R182). -/
def Session.status (x : Session) : RunState × Option FaultRecord := (x.core.runState, x.core.fault)

/-- The host answers the console input; it may do so while an IN holds (45_io.md R155). -/
def Session.supplyInput (x : Session) (answers : List ConsoleAnswer) : Session :=
  { x with core := x.core.supplyInput answers }

end Sys2Proof.Machine
end

