-- ==== Sys2Proof/Safety.lean ====
section
/-! DEFINITION. The terms the statements use: what a state keeps, the machine's invariant, and what a good run is. -/

namespace Sys2Proof.Machine

/-! ### What stays the same from `s` to `t` -/

/-- Every register keeps its value. -/
def SameRegisters (s t : State) : Prop := ∀ r, t.reg r = s.reg r

/-- Every register but `rd` keeps its value. -/
def SameRegistersBut (rd : Reg) (s t : State) : Prop := ∀ r, r ≠ rd → t.reg r = s.reg r

/-- Every one of the 65,536 cells reads as before. -/
def SameMemory (s t : State) : Prop := ∀ p a, t.memRead p a = s.memRead p a

/-- Every cell but `p:a` reads as before. -/
def SameMemoryBut (p a : Byte) (s t : State) : Prop :=
  ∀ q b, ¬ (q = p ∧ b = a) → t.memRead q b = s.memRead q b

/-- The three page selectors. -/
def SamePages (s t : State) : Prop :=
  t.codepage = s.codepage ∧ t.datapage = s.datapage ∧ t.stackpage = s.stackpage

/-- The halted flag and the fault latch. -/
def SameRunFlags (s t : State) : Prop := t.halted = s.halted ∧ t.fault = s.fault

/-- The console: no answer taken, nothing sent. -/
def SameConsole (s t : State) : Prop := t.input = s.input ∧ t.output = s.output

/-- Everything but the general registers, `pc`, memory and the trace. -/
def SameControl (s t : State) : Prop := t.sp = s.sp ∧ SamePages s t ∧ SameRunFlags s t ∧ SameConsole s t

/-! ### Reset -/

/-- The core's own state is as 10_state.md R29 has it after reset. It says nothing of the host's streams. -/
def AtReset (t : State) : Prop :=
  (∀ r, t.reg r = 0x00) ∧ t.pc = 0x00 ∧ t.sp = 0x00 ∧ t.codepage = 0x00 ∧ t.datapage = 0x01 ∧ t.stackpage = 0x00 ∧
  t.halted = false ∧ t.fault = none ∧ (∀ p a, t.memRead p a = 0x00) ∧ t.runState = .running

/-! ### Encodings written out as numbers -/

/-- The byte of a row of 30_encoding.md R66: its match value, `rd` in bits 3-2, `low` in bits 1-0. -/
def rowByte (pattern : Nat) (rd low : BitVec 2) : Byte := BitVec.ofNat 8 (pattern + 4 * rd.toNat + low.toNat)

/-! ### Who may write what -/

/-- The register an instruction writes, by 10_state.md R11; IN writes one only when it completes. -/
def destination : Instr → Option Reg
  | .nop => none
  | .halt _ => none
  | .page _ => none
  | .sub rd _ => some rd
  | .load rd _ => some rd
  | .store _ _ => none
  | .skipz _ => none
  | .skipnz _ => none
  | .skipl _ => none
  | .skipge _ => none
  | .jalr rd _ => some rd
  | .nand rd _ => some rd
  | .add rd _ => some rd
  | .inc rd => some rd
  | .dec rd => some rd
  | .out _ => none
  | .inp rd => some rd
  | .jmpfar _ rs => some rs
  | .push _ => none
  | .pop rd => some rd
  | .stackpage _ => none
  | .sli rd _ => some rd

/-- The instruction can complete at once: it is no IN, or the console's next answer is a byte (45_io.md R154, R155). -/
def CanComplete (i : Instr) (s : State) : Prop :=
  ∀ rd, i = .inp rd → ∃ v rest, s.input = .byte v :: rest

/-! ### The invariant -/

/-- What every step keeps: the memory has its canonical form; Halted and Faulted do not both hold
(70_reset_and_hazards.md R212); a latched record locates the offending byte and names its cause rightly
(60_exceptions.md R175, R176); a halted core's last record is a HALT's; and the last trace record shows the registers as
they are (60_exceptions.md R188; 70_reset_and_hazards.md R218). -/
structure State.Inv (s : State) : Prop where
  memoryCanonical : s.mem.wf = true
  notHaltedAndFaulted : s.halted = true → s.fault = none
  latchLocatesByte : ∀ f, s.fault = some f →
    f.codepage = s.codepage ∧ f.pc = s.pc ∧ f.byte = s.fetchByte
  latchCause : ∀ f, s.fault = some f →
    (f.cause = .illegalOpcode ∧ isInstructionByte f.byte = false) ∨
    (f.cause = .invalidInput ∧ ∃ rd, f.byte = rowByte 0x83 rd 0)
  haltedByHalt : s.halted = true → ∃ r, s.trace.getLast? = some r ∧ r.variant = .halt
  traceShowsState : ∀ r, s.trace.getLast? = some r → r.snapshot = s.snapshot
  traceBytesAreInstructions : ∀ r ∈ s.trace, decodeVariant r.byte = some r.variant

/-! ### Runs -/

/-- `t` is the state `k` steps after `s`. -/
def Reaches (k : Nat) (s t : State) : Prop := Sys2Proof.core.run k s = .next t

/-- A run of `k` steps from `s` is safe: no fault is latched at its end (70_reset_and_hazards.md R218). -/
def SafeRun (k : Nat) (s : State) : Prop := ∃ t, Reaches k s t ∧ t.fault = none

end Sys2Proof.Machine
end

