-- ==== Sys2Proof/Certificates/Slice0/Obligations.lean ====
section
/-! DEFINITION. The statements for the provers. `t` is the state after, `s` the state before. -/

open Sys2Proof Sys2Proof.Machine

/-! ### One instruction each: its byte, that it completes, its result, and what it leaves unchanged -/

/-- 40_nop_halt.md R90. Only the whole byte 0x00 is NOP: the bytes 0x04, 0x08 and 0x0C are illegal. -/
def Obligations.NopOnlyAdvancesPc : Prop :=
  ∀ s : State, decode 0x00 = .legal .nop ∧ (∀ rd, rd ≠ 0 → decode (rowByte 0x00 rd 0) = .illegalOpcode (rowByte 0x00 rd 0)) ∧
    ∃ t, exec .nop s = .next t ∧ t.pc = s.pc + 1 ∧
      SameRegisters s t ∧ SameControl s t ∧ SameMemory s t

/-- 40_nop_halt.md, HALT: the cycle completes, `halted` is set, and no further cycle runs, however often one is asked
for. That the two rd bits are ignored, so that 0x05, 0x09 and 0x0D are HALT too, is the spec's decision D9
(92_eei_decisions.md, log entry 3); that the trace record's snapshot shows `halted` is its decision D17 (log entry
17). -/
def Obligations.HaltSetsHaltedForGood : Prop :=
  ∀ (ignored : BitVec 2) (s : State), decode (rowByte 0x01 ignored 0) = .legal (.halt ignored) ∧
    ∃ t, exec (.halt ignored) s = .next t ∧ t.halted = true ∧ (∀ k, Reaches k t t) ∧ t.pc = s.pc + 1 ∧
      (∃ r, t.trace = s.trace ++ [r] ∧ r.variant = .halt ∧ r.snapshot.halted = true) ∧
      SameRegisters s t ∧ t.sp = s.sp ∧ SamePages s t ∧ t.fault = s.fault ∧ SameConsole s t ∧ SameMemory s t

/-- 41_memory_ops.md R101. -/
def Obligations.PageSetsDatapage : Prop :=
  ∀ (rd : Reg) (s : State), decode (rowByte 0x02 rd.index 0) = .legal (.page rd) ∧
    ∃ t, exec (.page rd) s = .next t ∧ t.datapage = s.reg rd ∧ t.pc = s.pc + 1 ∧
      t.codepage = s.codepage ∧ t.stackpage = s.stackpage ∧
      SameRegisters s t ∧ t.sp = s.sp ∧ SameRunFlags s t ∧ SameConsole s t ∧ SameMemory s t

/-- 41_memory_ops.md R102. The offset is the value `rs` has before the write, `rd = rs` included. -/
def Obligations.LoadReadsTheDataPage : Prop :=
  ∀ (rd rs : Reg) (s : State), decode (rowByte 0x20 rd.index rs.index) = .legal (.load rd rs) ∧
    ∃ t, exec (.load rd rs) s = .next t ∧ t.reg rd = s.memRead s.datapage (s.reg rs) ∧
      SameRegistersBut rd s t ∧ t.pc = s.pc + 1 ∧ SameControl s t ∧ SameMemory s t

/-- 41_memory_ops.md R103. The stored cell is `datapage : x[rs]`, the value `x[rd]`. -/
def Obligations.StoreWritesTheDataPage : Prop :=
  ∀ (rd rs : Reg) (s : State), decode (rowByte 0x30 rd.index rs.index) = .legal (.store rd rs) ∧
    ∃ t, exec (.store rd rs) s = .next t ∧ t.memRead s.datapage (s.reg rs) = s.reg rd ∧
      SameMemoryBut s.datapage (s.reg rs) s t ∧ SameRegisters s t ∧ t.pc = s.pc + 1 ∧ SameControl s t

/-- 42_alu.md R111. -/
def Obligations.SubSubtractsModulo256 : Prop :=
  ∀ (rd rs : Reg) (s : State), decode (rowByte 0x10 rd.index rs.index) = .legal (.sub rd rs) ∧
    ∃ t, exec (.sub rd rs) s = .next t ∧
      (t.reg rd).toNat = ((s.reg rd).toNat + 256 - (s.reg rs).toNat) % 256 ∧
      SameRegistersBut rd s t ∧ t.pc = s.pc + 1 ∧ SameControl s t ∧ SameMemory s t

/-- 42_alu.md R112. Bit by bit. -/
def Obligations.NandComplementsTheAnd : Prop :=
  ∀ (rd rs : Reg) (s : State), decode (rowByte 0x60 rd.index rs.index) = .legal (.nand rd rs) ∧
    ∃ t, exec (.nand rd rs) s = .next t ∧
      (∀ k, k < 8 → (t.reg rd).getLsbD k = !((s.reg rd).getLsbD k && (s.reg rs).getLsbD k)) ∧
      SameRegistersBut rd s t ∧ t.pc = s.pc + 1 ∧ SameControl s t ∧ SameMemory s t

/-- 42_alu.md R113. -/
def Obligations.AddAddsModulo256 : Prop :=
  ∀ (rd rs : Reg) (s : State), decode (rowByte 0x70 rd.index rs.index) = .legal (.add rd rs) ∧
    ∃ t, exec (.add rd rs) s = .next t ∧
      (t.reg rd).toNat = ((s.reg rd).toNat + (s.reg rs).toNat) % 256 ∧
      SameRegistersBut rd s t ∧ t.pc = s.pc + 1 ∧ SameControl s t ∧ SameMemory s t

/-- 42_alu.md R114. -/
def Obligations.IncAddsOneModulo256 : Prop :=
  ∀ (rd : Reg) (s : State), decode (rowByte 0x80 rd.index 0) = .legal (.inc rd) ∧
    ∃ t, exec (.inc rd) s = .next t ∧ (t.reg rd).toNat = ((s.reg rd).toNat + 1) % 256 ∧
      SameRegistersBut rd s t ∧ t.pc = s.pc + 1 ∧ SameControl s t ∧ SameMemory s t

/-- 42_alu.md R115. -/
def Obligations.DecSubtractsOneModulo256 : Prop :=
  ∀ (rd : Reg) (s : State), decode (rowByte 0x81 rd.index 0) = .legal (.dec rd) ∧
    ∃ t, exec (.dec rd) s = .next t ∧ (t.reg rd).toNat = ((s.reg rd).toNat + 255) % 256 ∧
      SameRegistersBut rd s t ∧ t.pc = s.pc + 1 ∧ SameControl s t ∧ SameMemory s t

/-- 42_alu.md R116. The immediate stands in bits 5-4 and 1-0 of the byte. -/
def Obligations.SliShiftsInTheImmediate : Prop :=
  ∀ (rd : Reg) (imm : BitVec 4) (s : State),
    decode (BitVec.ofNat 8 (0xC0 + 16 * (imm.toNat / 4) + 4 * rd.index.toNat + imm.toNat % 4)) = .legal (.sli rd imm) ∧
    ∃ t, exec (.sli rd imm) s = .next t ∧
      (t.reg rd).toNat = ((s.reg rd).toNat * 16) % 256 + imm.toNat ∧
      SameRegistersBut rd s t ∧ t.pc = s.pc + 1 ∧ SameControl s t ∧ SameMemory s t

/-- 43_skip.md R131. -/
def Obligations.SkipzSkipsOnZero : Prop :=
  ∀ (rd : Reg) (s : State), decode (rowByte 0x40 rd.index 0) = .legal (.skipz rd) ∧
    ∃ t, exec (.skipz rd) s = .next t ∧ t.pc = (if s.reg rd = 0x00 then s.pc + 2 else s.pc + 1) ∧
      SameRegisters s t ∧ SameControl s t ∧ SameMemory s t

/-- 43_skip.md R132. -/
def Obligations.SkipnzSkipsOnNonzero : Prop :=
  ∀ (rd : Reg) (s : State), decode (rowByte 0x41 rd.index 0) = .legal (.skipnz rd) ∧
    ∃ t, exec (.skipnz rd) s = .next t ∧ t.pc = (if s.reg rd ≠ 0x00 then s.pc + 2 else s.pc + 1) ∧
      SameRegisters s t ∧ SameControl s t ∧ SameMemory s t

/-- 43_skip.md R133. Bit 7 is 1 exactly for 0x80 to 0xFF. -/
def Obligations.SkiplSkipsOnBitSevenSet : Prop :=
  ∀ (rd : Reg) (s : State), decode (rowByte 0x42 rd.index 0) = .legal (.skipl rd) ∧
    ∃ t, exec (.skipl rd) s = .next t ∧ t.pc = (if 0x80 ≤ (s.reg rd).toNat then s.pc + 2 else s.pc + 1) ∧
      SameRegisters s t ∧ SameControl s t ∧ SameMemory s t

/-- 43_skip.md R134. Bit 7 is 0 exactly for 0x00 to 0x7F. -/
def Obligations.SkipgeSkipsOnBitSevenClear : Prop :=
  ∀ (rd : Reg) (s : State), decode (rowByte 0x43 rd.index 0) = .legal (.skipge rd) ∧
    ∃ t, exec (.skipge rd) s = .next t ∧ t.pc = (if (s.reg rd).toNat < 0x80 then s.pc + 2 else s.pc + 1) ∧
      SameRegisters s t ∧ SameControl s t ∧ SameMemory s t

/-- 44_jump.md, JALR, with the order of effects that the spec decides (92_eei_decisions.md D8, log entry 12): when `rd`
and `rs` are one register, the target read is the return offset just written. -/
def Obligations.JalrLinksThenJumps : Prop :=
  ∀ (rd rs : Reg) (s : State), decode (rowByte 0x50 rd.index rs.index) = .legal (.jalr rd rs) ∧
    ∃ t, exec (.jalr rd rs) s = .next t ∧ t.reg rd = s.pc + 1 ∧
      t.pc = (if rs = rd then s.pc + 1 else s.reg rs) ∧
      SameRegistersBut rd s t ∧ SameControl s t ∧ SameMemory s t

/-- 44_jump.md, JMPFAR, with the selector and the order of effects that the spec decides (92_eei_decisions.md D2 and D8,
log entries 10 and 12): the link register `rs` is written first, so a page or a target read from it is the return
offset. -/
def Obligations.JmpfarLinksThenSwitchesPageThenJumps : Prop :=
  ∀ (rd rs : Reg) (s : State), decode (rowByte 0x90 rd.index rs.index) = .legal (.jmpfar rd rs) ∧
    ∃ t, exec (.jmpfar rd rs) s = .next t ∧ t.reg rs = s.pc + 1 ∧
      t.codepage = (if rs = .c then s.pc + 1 else s.reg .c) ∧
      t.pc = (if rd = rs then s.pc + 1 else s.reg rd) ∧
      SameRegistersBut rs s t ∧ t.sp = s.sp ∧ t.datapage = s.datapage ∧ t.stackpage = s.stackpage ∧
      SameRunFlags s t ∧ SameConsole s t ∧ SameMemory s t

/-- 45_io.md, OUT. That the 8 bits go out unchanged, above 0x7F too, is the spec's decision D14 (92_eei_decisions.md, log
entry 16); that they go to a list in the state is the model's choice (log entry 1). -/
def Obligations.OutSendsTheRegister : Prop :=
  ∀ (rd : Reg) (s : State), decode (rowByte 0x82 rd.index 0) = .legal (.out rd) ∧
    ∃ t, exec (.out rd) s = .next t ∧ t.output = s.output ++ [s.reg rd] ∧ t.input = s.input ∧ t.pc = s.pc + 1 ∧
      SameRegisters s t ∧ t.sp = s.sp ∧ SamePages s t ∧ SameRunFlags s t ∧ SameMemory s t

/-- 45_io.md, IN with a valid answer. That answers come from a list is the model's choice (log entry 1). -/
def Obligations.InStoresAValidByte : Prop :=
  ∀ (rd : Reg) (v : Byte) (rest : List ConsoleAnswer) (s : State), s.input = .byte v :: rest →
    decode (rowByte 0x83 rd.index 0) = .legal (.inp rd) ∧
    ∃ t, exec (.inp rd) s = .next t ∧ t.reg rd = v ∧ t.input = rest ∧ t.output = s.output ∧ t.pc = s.pc + 1 ∧
      SameRegistersBut rd s t ∧ t.sp = s.sp ∧ SamePages s t ∧ SameRunFlags s t ∧ SameMemory s t

/-- 45_io.md and 60_exceptions.md, IN with an invalid answer: the InvalidInput fault, latched with the record the spec
decides (92_eei_decisions.md D10, log entry 15). The answer is consumed and nothing else changes. -/
def Obligations.InvalidInputLatchesTheFault : Prop :=
  ∀ (rd : Reg) (rest : List ConsoleAnswer) (s : State), s.input = .invalid :: rest →
    ∃ t, exec (.inp rd) s = .next t ∧
      t.fault = some ⟨.invalidInput, rowByte 0x83 rd.index 0, s.codepage, s.pc⟩ ∧ t.input = rest ∧
      t.output = s.output ∧ t.trace = s.trace ∧ t.pc = s.pc ∧ t.halted = s.halted ∧
      SameRegisters s t ∧ t.sp = s.sp ∧ SamePages s t ∧ SameMemory s t

/-- 45_io.md, IN with no answer yet: it holds, and nothing changes (92_eei_decisions.md D13, log entry 4). -/
def Obligations.InHoldsUntilAnswered : Prop :=
  ∀ (rd : Reg) (s : State), s.input = [] → exec (.inp rd) s = .next s

/-- 46_stack.md R161. The stored cell is `stackpage : sp - 1`. -/
def Obligations.PushStoresBelowTheTop : Prop :=
  ∀ (rd : Reg) (s : State), decode (rowByte 0xA0 rd.index 0) = .legal (.push rd) ∧
    ∃ t, exec (.push rd) s = .next t ∧ t.sp = s.sp - 1 ∧ t.memRead s.stackpage (s.sp - 1) = s.reg rd ∧
      SameMemoryBut s.stackpage (s.sp - 1) s t ∧ SameRegisters s t ∧ t.pc = s.pc + 1 ∧
      SamePages s t ∧ SameRunFlags s t ∧ SameConsole s t

/-- 46_stack.md R162. The cell read is `stackpage : sp`, and it keeps its value. -/
def Obligations.PopReadsTheTop : Prop :=
  ∀ (rd : Reg) (s : State), decode (rowByte 0xA1 rd.index 0) = .legal (.pop rd) ∧
    ∃ t, exec (.pop rd) s = .next t ∧ t.reg rd = s.memRead s.stackpage s.sp ∧ t.sp = s.sp + 1 ∧
      SameRegistersBut rd s t ∧ t.pc = s.pc + 1 ∧ SamePages s t ∧ SameRunFlags s t ∧ SameConsole s t ∧
      SameMemory s t

/-- 46_stack.md R163. -/
def Obligations.StackpageSetsTheStackPage : Prop :=
  ∀ (rd : Reg) (s : State), decode (rowByte 0xA2 rd.index 0) = .legal (.stackpage rd) ∧
    ∃ t, exec (.stackpage rd) s = .next t ∧ t.stackpage = s.reg rd ∧ t.sp = s.sp ∧ t.pc = s.pc + 1 ∧
      t.codepage = s.codepage ∧ t.datapage = s.datapage ∧
      SameRegisters s t ∧ SameRunFlags s t ∧ SameConsole s t ∧ SameMemory s t

/-! ### Laws over several instructions -/

/-- 43_skip.md R136: for every register value exactly one of SKIPZ and SKIPNZ skips, and exactly one of SKIPL and
SKIPGE, the second pair by bit 7 alone. -/
def Obligations.SkipsFormComplementaryPairs : Prop :=
  ∀ (rd : Reg) (s : State), ∃ tz tn tl tg,
    exec (.skipz rd) s = .next tz ∧ exec (.skipnz rd) s = .next tn ∧
    exec (.skipl rd) s = .next tl ∧ exec (.skipge rd) s = .next tg ∧
    ((tz.pc = s.pc + 2 ∧ tn.pc = s.pc + 1 ∧ s.reg rd = 0x00) ∨
      (tz.pc = s.pc + 1 ∧ tn.pc = s.pc + 2 ∧ s.reg rd ≠ 0x00)) ∧
    ((tl.pc = s.pc + 2 ∧ tg.pc = s.pc + 1 ∧ (s.reg rd).getLsbD 7 = true) ∨
      (tl.pc = s.pc + 1 ∧ tg.pc = s.pc + 2 ∧ (s.reg rd).getLsbD 7 = false))

/-- 46_stack.md R164: after PUSH, a POP in any later state `u` that still has the stack page, the stack pointer and the
pushed cell gives the pushed value back and restores `sp`. -/
def Obligations.PushThenPopRestores : Prop :=
  ∀ (rd rd' : Reg) (s : State), ∃ t, exec (.push rd) s = .next t ∧
    ∀ u : State, u.stackpage = t.stackpage → u.sp = t.sp →
      u.memRead t.stackpage t.sp = t.memRead t.stackpage t.sp →
      ∃ w, exec (.pop rd') u = .next w ∧ w.reg rd' = s.reg rd ∧ w.sp = s.sp

/-- 44_jump.md, the round trip of JALR: a jump back, in any later state `u` that holds the saved offset in a register
other than its own link, goes to the cell after the first JALR. -/
def Obligations.JalrRoundTripReturns : Prop :=
  ∀ (rd rs back link : Reg) (s : State), ∃ t, exec (.jalr rd rs) s = .next t ∧
    ∀ u : State, u.reg back = t.reg rd → link ≠ back →
      ∃ w, exec (.jalr link back) u = .next w ∧ w.pc = s.pc + 1 ∧ w.codepage = u.codepage

/-- 42_alu.md R116: two SLI in a row load any 8-bit constant, high nibble first, whatever the register held. -/
def Obligations.TwoSliLoadAnyConstant : Prop :=
  ∀ (rd : Reg) (hi lo : BitVec 4) (s : State), ∃ t w,
    exec (.sli rd hi) s = .next t ∧ exec (.sli rd lo) t = .next w ∧
    (w.reg rd).toNat = 16 * hi.toNat + lo.toNat

/-- 60_exceptions.md section 4: an instruction that completes adds exactly one trace record: its variant, the raw fields
of its byte, the byte, and the registers after write-back. The record's fields are the spec's decision
(92_eei_decisions.md D17 and D20, log entry 17). -/
def Obligations.CompletedInstructionIsTracedOnce : Prop :=
  ∀ (i : Instr) (s : State), CanComplete i s →
    ∃ t, exec i s = .next t ∧
      t.trace = s.trace ++ [
        ⟨i.variant, (encode i).extractLsb' 2 2, (encode i).extractLsb' 0 2,
          (encode i).extractLsb' 4 2 ++ (encode i).extractLsb' 0 2, encode i,
          ⟨t.regs, t.pc, t.sp, t.codepage, t.datapage, t.stackpage, t.halted⟩⟩]

/-! ### The cycle and the run loop -/

/-- 70_reset_and_hazards.md section 3: in a core that runs, the step is the execution of the instruction that the byte
at `codepage:pc` decodes to; write-back and trace are part of that execution. -/
def Obligations.StepRunsTheDecodedInstruction : Prop :=
  ∀ (s : State) (i : Instr), s.halted = false → s.fault = none →
    decode (s.memRead s.codepage s.pc) = .legal i → step s = exec i s

/-- 60_exceptions.md section 1: one of the 27 illegal bytes ends the cycle in the decode step. The latch takes the record
the spec decides (92_eei_decisions.md D10, log entry 15) and everything else stays. -/
def Obligations.IllegalByteLatchesTheFault : Prop :=
  ∀ s : State, s.halted = false → s.fault = none →
    isInstructionByte (s.memRead s.codepage s.pc) = false →
    ∃ t, step s = .next t ∧
      t.fault = some ⟨.illegalOpcode, s.memRead s.codepage s.pc, s.codepage, s.pc⟩ ∧
      SameRegisters s t ∧ t.pc = s.pc ∧ t.sp = s.sp ∧ SamePages s t ∧ t.halted = s.halted ∧
      SameConsole s t ∧ t.trace = s.trace ∧ SameMemory s t

/-- 60_exceptions.md section 1: what latches a fault, and only that: an illegal byte, or an IN whose answer is invalid. -/
def Obligations.FaultsHaveExactlyTwoCauses : Prop :=
  ∀ s t : State, step s = .next t → s.fault = none →
    ((∃ f, t.fault = some f ∧ f.cause.code = 1) ↔
      (s.halted = false ∧ isInstructionByte s.fetchByte = false)) ∧
    ((∃ f, t.fault = some f ∧ f.cause.code = 2) ↔
      (s.halted = false ∧ (∃ rd, s.fetchByte = rowByte 0x83 rd 0) ∧ ∃ rest, s.input = .invalid :: rest)) ∧
    (∀ f, t.fault = some f → f.cause.code = 1 ∨ f.cause.code = 2)

/-- 60_exceptions.md section 1: a faulting cycle changes nothing but the latch, and outside the core only the console
answer it consumed. The record in the latch (byte, `codepage`, `pc`) is the spec's decision D10 (92_eei_decisions.md,
log entry 15). -/
def Obligations.FaultsArePrecise : Prop :=
  ∀ (s t : State) (f : FaultRecord), step s = .next t → s.fault = none → t.fault = some f →
    f.byte = s.memRead s.codepage s.pc ∧ f.codepage = s.codepage ∧ f.pc = s.pc ∧ t.halted = false ∧
    SameRegisters s t ∧ t.pc = s.pc ∧ t.sp = s.sp ∧ SamePages s t ∧ t.halted = s.halted ∧ SameMemory s t ∧
    t.output = s.output ∧ t.trace = s.trace ∧ (t.input = s.input ∨ ∃ rest, s.input = .invalid :: rest ∧ t.input = rest)

/-- 70_reset_and_hazards.md section 3: a core that is Halted or Faulted runs no cycle, however often one is asked for;
from every state the run loop bounded by `k` is a run of `k` steps; and in a core that is neither it begins with a step.
That a latched fault stops the core too is the spec's decision (92_eei_decisions.md D10, log entry 5). -/
def Obligations.StoppedCoreNeverMoves : Prop :=
  (∀ (k : Nat) (s : State), (s.halted = true ∨ s.fault ≠ none) → Reaches k s s ∧ runLoop k s = .next s) ∧
  (∀ (k : Nat) (s t : State), runLoop k s = .next t ↔ Reaches k s t) ∧
  (∀ (k : Nat) (s : State), s.halted = false → s.fault = none →
    ∃ t, step s = .next t ∧ runLoop (k + 1) s = runLoop k t)

/-- 10_state.md R24: false after reset, set by HALT only, and never cleared by a step. That HALT has four bytes is the
spec's decision D9 (92_eei_decisions.md, log entry 3). -/
def Obligations.HaltedIsSetByHaltOnlyAndKept : Prop :=
  State.reset.halted = false ∧
  (∀ s t : State, step s = .next t → s.halted = false → t.halted = true →
    ∃ ignored, s.fetchByte = rowByte 0x01 ignored 0) ∧
  (∀ (k : Nat) (s t : State), Reaches k s t → s.halted = true → t.halted = true)

/-- 10_state.md section 4: of all steps only that of a JMPFAR changes `codepage`, and only to the value C then has (the
spec's decisions D2 and D8 of 92_eei_decisions.md, log entries 10 and 12). -/
def Obligations.CodepageIsWrittenByJmpfarOnly : Prop :=
  ∀ s t : State, step s = .next t → t.codepage ≠ s.codepage →
    (∃ rd rs, s.fetchByte = rowByte 0x90 rd rs) ∧ t.codepage = t.reg .c

/-- 10_state.md section 4: of all steps only that of a PAGE changes `datapage`, and only to the value of its register. -/
def Obligations.DatapageIsWrittenByPageOnly : Prop :=
  ∀ s t : State, step s = .next t → t.datapage ≠ s.datapage →
    ∃ rd : Reg, s.fetchByte = rowByte 0x02 rd.index 0 ∧ t.datapage = s.reg rd

/-- 10_state.md section 4: of all steps only that of a STACKPAGE changes `stackpage`, and only to the value of its
register. -/
def Obligations.StackpageIsWrittenByStackpageOnly : Prop :=
  ∀ s t : State, step s = .next t → t.stackpage ≠ s.stackpage →
    ∃ rd : Reg, s.fetchByte = rowByte 0xA2 rd.index 0 ∧ t.stackpage = s.reg rd

/-- 10_state.md section 4: a program can only move `sp` by one, down with PUSH and up with POP. -/
def Obligations.StackPointerMovesByPushAndPopOnly : Prop :=
  ∀ s t : State, step s = .next t → t.sp ≠ s.sp →
    (t.sp = s.sp - 1 ∧ ∃ rd, s.fetchByte = rowByte 0xA0 rd 0) ∨
    (t.sp = s.sp + 1 ∧ ∃ rd, s.fetchByte = rowByte 0xA1 rd 0)

/-- 20_memory.md section 2: a step changes at most one cell, and only by STORE, at `datapage : x[rs]`, or by PUSH, at
`stackpage : sp - 1`. -/
def Obligations.MemoryIsWrittenByStoreAndPushOnly : Prop :=
  ∀ (s t : State) (p a : Byte), step s = .next t → t.memRead p a ≠ s.memRead p a →
    (∃ rd rs : Reg, s.fetchByte = rowByte 0x30 rd.index rs.index ∧ p = s.datapage ∧ a = s.reg rs ∧
      t.memRead p a = s.reg rd) ∨
    (∃ rd : Reg, s.fetchByte = rowByte 0xA0 rd.index 0 ∧ p = s.stackpage ∧ a = s.sp - 1 ∧
      t.memRead p a = s.reg rd)

/-- 10_state.md section 1: a step changes no register but the destination of the instruction it runs. -/
def Obligations.RegistersAreWrittenByTheirInstructionOnly : Prop :=
  ∀ (s t : State) (r : Reg), step s = .next t → t.reg r ≠ s.reg r →
    ∃ i, decode s.fetchByte = .legal i ∧ destination i = some r

/-- No state stops the model: every step and every bounded run answers a next state. That is the model's choice: the
spec's faults are next states with the latch set (log entry 6), an IN without an answer and a stopped core are steps to
the same state (log entries 4 and 5). The second clause says what the latch does: an instruction that can complete leaves
it as it was, whatever its operands and addresses (60_exceptions.md section 1; 20_memory.md section 2). -/
def Obligations.EveryRunAnswersANextState : Prop :=
  (∀ (k : Nat) (s : State), (∃ t, step s = .next t) ∧ ∃ t, Reaches k s t) ∧
  (∀ (i : Instr) (s : State), CanComplete i s → ∃ t, exec i s = .next t ∧ t.fault = s.fault)

/-- 60_exceptions.md section 4: every step adds no trace record or one, and one it adds tells the byte that stood at
`codepage:pc`, its variant, its raw fields, and the registers after the step (92_eei_decisions.md D17 and D20, log entry
17). A cycle that faults adds none. -/
def Obligations.TraceRecordsTellTheFetchedByte : Prop :=
  ∀ s t : State, step s = .next t →
    (t.trace = s.trace ∧ t.pc = s.pc) ∨
    ∃ r, t.trace = s.trace ++ [r] ∧ r.byte = s.memRead s.codepage s.pc ∧
      (decoderOutputs r.byte).variant = some r.variant ∧ (decoderOutputs r.byte).rd = r.rd ∧
      (decoderOutputs r.byte).rs = r.rs ∧ (decoderOutputs r.byte).imm = r.imm ∧
      r.snapshot = t.snapshot ∧ t.fault = s.fault

/-- 43_skip.md section 1: what stands in the skipped cell, an illegal byte included, has no effect on a taken skip: with
any value there the step ends as before, the cell apart. -/
def Obligations.SkippedCellHasNoEffect : Prop :=
  ∀ (s : State) (rd : Reg) (v : Byte), s.halted = false → s.fault = none →
    ((s.fetchByte = rowByte 0x40 rd.index 0 ∧ s.reg rd = 0x00) ∨
      (s.fetchByte = rowByte 0x41 rd.index 0 ∧ s.reg rd ≠ 0x00) ∨
      (s.fetchByte = rowByte 0x42 rd.index 0 ∧ 0x80 ≤ (s.reg rd).toNat) ∨
      (s.fetchByte = rowByte 0x43 rd.index 0 ∧ (s.reg rd).toNat < 0x80)) →
    ∃ t, step s = .next t ∧ t.pc = s.pc + 2 ∧ t.fault = none ∧
      step (s.memWrite s.codepage (s.pc + 1) v) = .next (t.memWrite s.codepage (s.pc + 1) v)

/-- 20_memory.md section 4: a STORE into the code page is seen by the next fetch of that cell, with nothing in between. -/
def Obligations.StoreIsSeenByTheNextFetch : Prop :=
  ∀ (rd rs : Reg) (s : State), s.halted = false → s.fault = none →
    s.fetchByte = rowByte 0x30 rd.index rs.index → s.datapage = s.codepage → s.reg rs = s.pc + 1 →
    ∃ t, step s = .next t ∧ t.fetchByte = s.reg rd ∧
      (∀ i, decode (s.reg rd) = .legal i → step t = exec i t)

/-- 70_reset_and_hazards.md section 2: a code page whose every cell reads 0x00 is NOPs that run round the page for ever;
the core neither halts nor faults. That the wrap of `pc` keeps the page is the spec's decision D3 (92_eei_decisions.md,
log entry 11). -/
def Obligations.PageOfNopsNeverEnds : Prop :=
  ∀ (k : Nat) (s : State), s.halted = false → s.fault = none → (∀ a, s.memRead s.codepage a = 0x00) →
    ∃ t, Reaches k s t ∧ t.halted = false ∧ t.fault = none ∧ t.pc = s.pc + BitVec.ofNat 8 k ∧
      SameRegisters s t ∧ t.sp = s.sp ∧ SamePages s t ∧ SameConsole s t ∧ SameMemory s t ∧
      t.trace.length = s.trace.length + k

/-! ### Reset and the invariant -/

/-- 10_state.md section 8: what reset leaves, in the state right after construction and after the host's reset of any
state, a halted or a faulted one included. The values of the general registers, `sp`, `pc` and the memory cells are
the spec's own decisions and derivations (92_eei_decisions.md D5, D6, D7, D15; log entries 7, 8 and 9), and the sticky
latch is its decision D10 (log entry 15); the page selectors and `halted` are the source's. That a reset keeps the
host's streams, and is taken outside a run only, is the model's choice (log entries 22 and 18). The last clause: no other
host command clears `halted` or the latch (60_exceptions.md section 1). -/
def Obligations.ResetLeavesTheSpecifiedState : Prop :=
  AtReset State.reset ∧
  (∀ s : State, AtReset s.hostReset ∧ SameConsole s s.hostReset ∧ s.hostReset.trace = s.trace ∧
    Session.command ⟨s, false⟩ .reset = .ok (⟨s.hostReset, false⟩, [])) ∧
  (∀ (x y : Session) (c : HostCommand) (out : List Byte), x.command c = .ok (y, out) → c ≠ .reset →
    SameRunFlags x.core y.core)

/-- The state after reset meets the invariant. -/
def Obligations.ResetMeetsTheMachineInvariant : Prop := State.reset.Inv

/-- Every step keeps the invariant: the canonical memory, Halted and Faulted exclusive, the latch telling where and why,
the trace telling the registers. Choices in it: the canonical memory is the model's (log entry 21), the latch and its
record are the spec's decision D10 (92_eei_decisions.md, log entry 15), and the trace is a list of the model's (log entry
1) of records with the fields of the spec's decisions D17 and D20 (log entry 17). -/
def Obligations.StepKeepsTheMachineInvariant : Prop :=
  ∀ s t : State, s.Inv → step s = .next t → t.Inv

/-- In canonical form, memories that read alike are equal data (20_memory.md section 1; log entry 21). -/
def Obligations.MemoriesThatReadAlikeAreEqual : Prop :=
  ∀ s t : State, s.mem.wf = true → t.mem.wf = true → SameMemory s t → s.mem = t.mem

/-! ### Encoding -/

/-- 30_encoding.md: a few bytes, written out from the bit layout, decode to the instructions they stand for. -/
def Obligations.SpelledOutBytesDecode : Prop :=
  decode 0b00000000 = .legal .nop ∧ decode 0b00000001 = .legal (.halt 0) ∧ decode 0b00000010 = .legal (.page .a) ∧
  decode 0b00111001 = .legal (.store .c .b) ∧ decode 0b00011011 = .legal (.sub .c .d) ∧
  decode 0b01001010 = .legal (.skipl .c) ∧ decode 0b01010111 = .legal (.jalr .b .d) ∧
  decode 0b10001111 = .legal (.inp .d) ∧ decode 0b10101001 = .legal (.pop .c) ∧
  decode 0b11100010 = .legal (.sli .a 0xA) ∧ decode 0b10110000 = .illegalOpcode 0b10110000

/-- 30_encoding.md R66: the 22 rows are pairwise disjoint, the decoder follows them, and they cover 229 bytes. That three
of these are further bytes of HALT is the spec's decision D9 (92_eei_decisions.md, log entry 3). -/
def Obligations.OpcodeRowsAreDisjointAndCover229 : Prop :=
  (∀ v b, (opcodeRow v).fits b = true ↔ decodeVariant b = some v) ∧
  (∀ v w b, (opcodeRow v).fits b = true → (opcodeRow w).fits b = true → v = w) ∧
  ((List.range 256).filter fun n => isInstructionByte (BitVec.ofNat 8 n)).length = 229 ∧
  (∀ b, isInstructionByte b = false ↔ decode b = .illegalOpcode b)

/-- 30_encoding.md section 5: the illegal bytes are exactly these 27. That 0x05, 0x09 and 0x0D are not among them is the
spec's decision D9 (92_eei_decisions.md, log entry 3). -/
def Obligations.IllegalBytesAreTheListed27 : Prop :=
  ∀ b : Byte, decode b = .illegalOpcode b ↔ b ∈ ([0x04, 0x08, 0x0C, 0x03, 0x07, 0x0B, 0x0F, 0xA3, 0xA7, 0xAB, 0xAF,
    0xB0, 0xB1, 0xB2, 0xB3, 0xB4, 0xB5, 0xB6, 0xB7, 0xB8, 0xB9, 0xBA, 0xBB, 0xBC, 0xBD, 0xBE, 0xBF] : List Byte)

/-- Decoding the byte of an instruction gives the instruction, for every instruction and every operand; the term of HALT
keeps its two ignored bits (log entry 3). -/
def Obligations.DecodeOfEncodeIsTheInstruction : Prop :=
  ∀ i : Instr, decode (encode i) = .legal i

/-- Each instruction byte decodes to one term and is that term's only byte: encoding what a byte decodes to gives the byte
back. Two bytes may still behave alike: the four of HALT do (30_encoding.md section 5, the spec's decision D9), and they
are four terms here because the term keeps HALT's two ignored bits (log entry 3). -/
def Obligations.EncodeOfDecodeIsTheByte : Prop :=
  ∀ (b : Byte) (i : Instr), decode b = .legal i ↔ encode i = b

/-! ### The host's operations -/

/-- 60_exceptions.md, batch write: a batch whose length is no multiple of 3 is refused; a whole one is its triples in
order, so that a later triple to the same cell wins; nothing but cells changes. That none is taken inside a run is the spec's decision D16 (92_eei_decisions.md), in the
model's Session (log entry 18). -/
def Obligations.WriteMacroIsCheckedThenOrdered : Prop :=
  ∀ (s : State) (batch : List Byte) (p a v : Byte),
    (batch.length % 3 ≠ 0 → s.writeMacro batch = .error .malformedWriteBatch) ∧
    s.writeMacro [] = .ok s ∧
    (batch.length % 3 = 0 → ∃ t u, s.writeMacro batch = .ok t ∧ s.writeMacro (batch ++ [p, a, v]) = .ok u ∧
      u.memRead p a = v ∧ SameMemoryBut p a t u ∧ { u with mem := s.mem } = s) ∧
    (∀ x : Session, x.inRun = true → x.command (.writeMacro batch) = .error .coreInRun)

/-- 60_exceptions.md, batch read: a batch whose length is no multiple of 2 is refused; a whole one reports its cells in
order and changes nothing. That none is taken inside a run is the spec's decision D16 (92_eei_decisions.md), and the
Session is the model's (log entry 18). -/
def Obligations.ReadMacroIsCheckedThenOrdered : Prop :=
  ∀ (s : State) (batch : List Byte) (p a : Byte),
    (batch.length % 2 ≠ 0 → s.readMacro batch = .error .malformedReadBatch) ∧
    s.readMacro [] = .ok [] ∧
    (batch.length % 2 = 0 → ∃ vs, s.readMacro batch = .ok vs ∧
      s.readMacro (batch ++ [p, a]) = .ok (vs ++ [s.memRead p a]) ∧
      Session.command ⟨s, false⟩ (.readMacro batch) = .ok (⟨s, false⟩, vs)) ∧
    (∀ x : Session, x.inRun = true → x.command (.readMacro batch) = .error .coreInRun)

/-- 70_reset_and_hazards.md, program load: a program of at most 256 bytes lands at offset 0 upward of the current code
page, whatever LOAD_PAGE_ADVANCE is; no other cell and nothing else changes. That no load is taken inside a run is the
spec's decision D16 (92_eei_decisions.md), in the model's Session (log entry 18). -/
def Obligations.ProgramLoadFillsTheCodePage : Prop :=
  ∀ (s : State) (program : List Byte), program.length ≤ 256 →
    (∀ i (h : i < program.length), (s.loadProgram program).memRead s.codepage (BitVec.ofNat 8 i) = program[i]) ∧
    (∀ p a, ¬ (p = s.codepage ∧ a.toNat < program.length) →
      (s.loadProgram program).memRead p a = s.memRead p a) ∧
    { s.loadProgram program with mem := s.mem } = s ∧
    (∀ x : Session, x.inRun = true → x.command (.load program) = .error .coreInRun)

/-- 70_reset_and_hazards.md section 2, a load of any length with the open parameter given
(92_eei_decisions.md D4, log entry 14): byte `i` goes to offset `i mod 256` of page `p0`, or of page
`p0 + i / 256` modulo 256; the last byte sent to a cell stays there; a cell that none is sent to keeps its value. -/
def Obligations.LongProgramLoadFollowsTheParameter : Prop :=
  ∀ (s : State) (advance : Bool) (program : List Byte) (p a : Byte),
    (∀ i (h : i < program.length),
      (p = (if advance = true then s.codepage + BitVec.ofNat 8 (i / 256) else s.codepage) ∧ a = BitVec.ofNat 8 i) →
      (∀ j, i < j → j < program.length →
        ¬ (p = (if advance = true then s.codepage + BitVec.ofNat 8 (j / 256) else s.codepage) ∧
          a = BitVec.ofNat 8 j)) →
      (s.loadProgramWith advance program).memRead p a = program[i]) ∧
    ((∀ j, j < program.length →
        ¬ (p = (if advance = true then s.codepage + BitVec.ofNat 8 (j / 256) else s.codepage) ∧
          a = BitVec.ofNat 8 j)) →
      (s.loadProgramWith advance program).memRead p a = s.memRead p a) ∧
    { s.loadProgramWith advance program with mem := s.mem } = s

/-- 20_memory.md section 4: inside a run every host command is turned away and the core is untouched; outside one the core
is idle. For a memory write, a memory read and a program load that is the spec's decision D16 (92_eei_decisions.md); that
a reset and a start are turned away too, and the Session with its bit `inRun`, are the model's DESIGN CHOICE (log entry
18), so a claim that a run can end in no other way rests on that choice. 70_reset_and_hazards.md section 3: inside a run a
cycle is one step of the core, and the run ends exactly when the core is then halted or has a latched fault (its decision
D10, log entry 5); a start begins a run exactly in Running. -/
def Obligations.HostAndRunNeverInterleave : Prop :=
  ∀ (x : Session), (x.inRun = true → ∀ c, x.command c = .error .coreInRun) ∧
    (x.inRun = true → ∃ t, step x.core = .next t ∧ x.cycle.core = t ∧
      (x.cycle.inRun = false ↔ (t.halted = true ∨ t.fault ≠ none))) ∧
    (x.inRun = false → x.cycle = x) ∧
    (x.inRun = false → ∃ y, x.command .start = .ok (y, [])) ∧
    (∀ y out, x.command .start = .ok (y, out) → y.core = x.core ∧ (y.inRun = true ↔ y.status.1 = .running))
end

