-- ==== Sys2Proof/Laws/State.lean ====
section
/-! SUPPORT. The state record: one lemma per field per update, so that no proof unfolds a record update. -/

namespace Sys2Proof.Machine

variable (s : State)

@[simp] theorem State.setReg_regs (r : Reg) (v : Byte) : (s.setReg r v).regs = s.regs.set r v := rfl
@[simp] theorem State.setReg_pc (r : Reg) (v : Byte) : (s.setReg r v).pc = s.pc := rfl
@[simp] theorem State.setReg_sp (r : Reg) (v : Byte) : (s.setReg r v).sp = s.sp := rfl
@[simp] theorem State.setReg_codepage (r : Reg) (v : Byte) : (s.setReg r v).codepage = s.codepage := rfl
@[simp] theorem State.setReg_datapage (r : Reg) (v : Byte) : (s.setReg r v).datapage = s.datapage := rfl
@[simp] theorem State.setReg_stackpage (r : Reg) (v : Byte) : (s.setReg r v).stackpage = s.stackpage := rfl
@[simp] theorem State.setReg_halted (r : Reg) (v : Byte) : (s.setReg r v).halted = s.halted := rfl
@[simp] theorem State.setReg_fault (r : Reg) (v : Byte) : (s.setReg r v).fault = s.fault := rfl
@[simp] theorem State.setReg_mem (r : Reg) (v : Byte) : (s.setReg r v).mem = s.mem := rfl
@[simp] theorem State.setReg_input (r : Reg) (v : Byte) : (s.setReg r v).input = s.input := rfl
@[simp] theorem State.setReg_output (r : Reg) (v : Byte) : (s.setReg r v).output = s.output := rfl
@[simp] theorem State.setReg_trace (r : Reg) (v : Byte) : (s.setReg r v).trace = s.trace := rfl

@[simp] theorem State.setPc_regs (v : Byte) : (s.setPc v).regs = s.regs := rfl
@[simp] theorem State.setPc_pc (v : Byte) : (s.setPc v).pc = v := rfl
@[simp] theorem State.setPc_sp (v : Byte) : (s.setPc v).sp = s.sp := rfl
@[simp] theorem State.setPc_codepage (v : Byte) : (s.setPc v).codepage = s.codepage := rfl
@[simp] theorem State.setPc_datapage (v : Byte) : (s.setPc v).datapage = s.datapage := rfl
@[simp] theorem State.setPc_stackpage (v : Byte) : (s.setPc v).stackpage = s.stackpage := rfl
@[simp] theorem State.setPc_halted (v : Byte) : (s.setPc v).halted = s.halted := rfl
@[simp] theorem State.setPc_fault (v : Byte) : (s.setPc v).fault = s.fault := rfl
@[simp] theorem State.setPc_mem (v : Byte) : (s.setPc v).mem = s.mem := rfl
@[simp] theorem State.setPc_input (v : Byte) : (s.setPc v).input = s.input := rfl
@[simp] theorem State.setPc_output (v : Byte) : (s.setPc v).output = s.output := rfl
@[simp] theorem State.setPc_trace (v : Byte) : (s.setPc v).trace = s.trace := rfl

@[simp] theorem State.setSp_regs (v : Byte) : (s.setSp v).regs = s.regs := rfl
@[simp] theorem State.setSp_pc (v : Byte) : (s.setSp v).pc = s.pc := rfl
@[simp] theorem State.setSp_sp (v : Byte) : (s.setSp v).sp = v := rfl
@[simp] theorem State.setSp_codepage (v : Byte) : (s.setSp v).codepage = s.codepage := rfl
@[simp] theorem State.setSp_datapage (v : Byte) : (s.setSp v).datapage = s.datapage := rfl
@[simp] theorem State.setSp_stackpage (v : Byte) : (s.setSp v).stackpage = s.stackpage := rfl
@[simp] theorem State.setSp_halted (v : Byte) : (s.setSp v).halted = s.halted := rfl
@[simp] theorem State.setSp_fault (v : Byte) : (s.setSp v).fault = s.fault := rfl
@[simp] theorem State.setSp_mem (v : Byte) : (s.setSp v).mem = s.mem := rfl
@[simp] theorem State.setSp_input (v : Byte) : (s.setSp v).input = s.input := rfl
@[simp] theorem State.setSp_output (v : Byte) : (s.setSp v).output = s.output := rfl
@[simp] theorem State.setSp_trace (v : Byte) : (s.setSp v).trace = s.trace := rfl

@[simp] theorem State.setCodepage_regs (v : Byte) : (s.setCodepage v).regs = s.regs := rfl
@[simp] theorem State.setCodepage_pc (v : Byte) : (s.setCodepage v).pc = s.pc := rfl
@[simp] theorem State.setCodepage_sp (v : Byte) : (s.setCodepage v).sp = s.sp := rfl
@[simp] theorem State.setCodepage_codepage (v : Byte) : (s.setCodepage v).codepage = v := rfl
@[simp] theorem State.setCodepage_datapage (v : Byte) : (s.setCodepage v).datapage = s.datapage := rfl
@[simp] theorem State.setCodepage_stackpage (v : Byte) : (s.setCodepage v).stackpage = s.stackpage := rfl
@[simp] theorem State.setCodepage_halted (v : Byte) : (s.setCodepage v).halted = s.halted := rfl
@[simp] theorem State.setCodepage_fault (v : Byte) : (s.setCodepage v).fault = s.fault := rfl
@[simp] theorem State.setCodepage_mem (v : Byte) : (s.setCodepage v).mem = s.mem := rfl
@[simp] theorem State.setCodepage_input (v : Byte) : (s.setCodepage v).input = s.input := rfl
@[simp] theorem State.setCodepage_output (v : Byte) : (s.setCodepage v).output = s.output := rfl
@[simp] theorem State.setCodepage_trace (v : Byte) : (s.setCodepage v).trace = s.trace := rfl

@[simp] theorem State.setDatapage_regs (v : Byte) : (s.setDatapage v).regs = s.regs := rfl
@[simp] theorem State.setDatapage_pc (v : Byte) : (s.setDatapage v).pc = s.pc := rfl
@[simp] theorem State.setDatapage_sp (v : Byte) : (s.setDatapage v).sp = s.sp := rfl
@[simp] theorem State.setDatapage_codepage (v : Byte) : (s.setDatapage v).codepage = s.codepage := rfl
@[simp] theorem State.setDatapage_datapage (v : Byte) : (s.setDatapage v).datapage = v := rfl
@[simp] theorem State.setDatapage_stackpage (v : Byte) : (s.setDatapage v).stackpage = s.stackpage := rfl
@[simp] theorem State.setDatapage_halted (v : Byte) : (s.setDatapage v).halted = s.halted := rfl
@[simp] theorem State.setDatapage_fault (v : Byte) : (s.setDatapage v).fault = s.fault := rfl
@[simp] theorem State.setDatapage_mem (v : Byte) : (s.setDatapage v).mem = s.mem := rfl
@[simp] theorem State.setDatapage_input (v : Byte) : (s.setDatapage v).input = s.input := rfl
@[simp] theorem State.setDatapage_output (v : Byte) : (s.setDatapage v).output = s.output := rfl
@[simp] theorem State.setDatapage_trace (v : Byte) : (s.setDatapage v).trace = s.trace := rfl

@[simp] theorem State.setStackpage_regs (v : Byte) : (s.setStackpage v).regs = s.regs := rfl
@[simp] theorem State.setStackpage_pc (v : Byte) : (s.setStackpage v).pc = s.pc := rfl
@[simp] theorem State.setStackpage_sp (v : Byte) : (s.setStackpage v).sp = s.sp := rfl
@[simp] theorem State.setStackpage_codepage (v : Byte) : (s.setStackpage v).codepage = s.codepage := rfl
@[simp] theorem State.setStackpage_datapage (v : Byte) : (s.setStackpage v).datapage = s.datapage := rfl
@[simp] theorem State.setStackpage_stackpage (v : Byte) : (s.setStackpage v).stackpage = v := rfl
@[simp] theorem State.setStackpage_halted (v : Byte) : (s.setStackpage v).halted = s.halted := rfl
@[simp] theorem State.setStackpage_fault (v : Byte) : (s.setStackpage v).fault = s.fault := rfl
@[simp] theorem State.setStackpage_mem (v : Byte) : (s.setStackpage v).mem = s.mem := rfl
@[simp] theorem State.setStackpage_input (v : Byte) : (s.setStackpage v).input = s.input := rfl
@[simp] theorem State.setStackpage_output (v : Byte) : (s.setStackpage v).output = s.output := rfl
@[simp] theorem State.setStackpage_trace (v : Byte) : (s.setStackpage v).trace = s.trace := rfl

@[simp] theorem State.setHalted_regs : (s.setHalted).regs = s.regs := rfl
@[simp] theorem State.setHalted_pc : (s.setHalted).pc = s.pc := rfl
@[simp] theorem State.setHalted_sp : (s.setHalted).sp = s.sp := rfl
@[simp] theorem State.setHalted_codepage : (s.setHalted).codepage = s.codepage := rfl
@[simp] theorem State.setHalted_datapage : (s.setHalted).datapage = s.datapage := rfl
@[simp] theorem State.setHalted_stackpage : (s.setHalted).stackpage = s.stackpage := rfl
@[simp] theorem State.setHalted_halted : (s.setHalted).halted = true := rfl
@[simp] theorem State.setHalted_fault : (s.setHalted).fault = s.fault := rfl
@[simp] theorem State.setHalted_mem : (s.setHalted).mem = s.mem := rfl
@[simp] theorem State.setHalted_input : (s.setHalted).input = s.input := rfl
@[simp] theorem State.setHalted_output : (s.setHalted).output = s.output := rfl
@[simp] theorem State.setHalted_trace : (s.setHalted).trace = s.trace := rfl

@[simp] theorem State.memWrite_regs (p a v : Byte) : (s.memWrite p a v).regs = s.regs := rfl
@[simp] theorem State.memWrite_pc (p a v : Byte) : (s.memWrite p a v).pc = s.pc := rfl
@[simp] theorem State.memWrite_sp (p a v : Byte) : (s.memWrite p a v).sp = s.sp := rfl
@[simp] theorem State.memWrite_codepage (p a v : Byte) : (s.memWrite p a v).codepage = s.codepage := rfl
@[simp] theorem State.memWrite_datapage (p a v : Byte) : (s.memWrite p a v).datapage = s.datapage := rfl
@[simp] theorem State.memWrite_stackpage (p a v : Byte) : (s.memWrite p a v).stackpage = s.stackpage := rfl
@[simp] theorem State.memWrite_halted (p a v : Byte) : (s.memWrite p a v).halted = s.halted := rfl
@[simp] theorem State.memWrite_fault (p a v : Byte) : (s.memWrite p a v).fault = s.fault := rfl
@[simp] theorem State.memWrite_mem (p a v : Byte) : (s.memWrite p a v).mem = s.mem.write (cellIndex p a) v := rfl
@[simp] theorem State.memWrite_input (p a v : Byte) : (s.memWrite p a v).input = s.input := rfl
@[simp] theorem State.memWrite_output (p a v : Byte) : (s.memWrite p a v).output = s.output := rfl
@[simp] theorem State.memWrite_trace (p a v : Byte) : (s.memWrite p a v).trace = s.trace := rfl

@[simp] theorem State.consoleOut_regs (v : Byte) : (s.consoleOut v).regs = s.regs := rfl
@[simp] theorem State.consoleOut_pc (v : Byte) : (s.consoleOut v).pc = s.pc := rfl
@[simp] theorem State.consoleOut_sp (v : Byte) : (s.consoleOut v).sp = s.sp := rfl
@[simp] theorem State.consoleOut_codepage (v : Byte) : (s.consoleOut v).codepage = s.codepage := rfl
@[simp] theorem State.consoleOut_datapage (v : Byte) : (s.consoleOut v).datapage = s.datapage := rfl
@[simp] theorem State.consoleOut_stackpage (v : Byte) : (s.consoleOut v).stackpage = s.stackpage := rfl
@[simp] theorem State.consoleOut_halted (v : Byte) : (s.consoleOut v).halted = s.halted := rfl
@[simp] theorem State.consoleOut_fault (v : Byte) : (s.consoleOut v).fault = s.fault := rfl
@[simp] theorem State.consoleOut_mem (v : Byte) : (s.consoleOut v).mem = s.mem := rfl
@[simp] theorem State.consoleOut_input (v : Byte) : (s.consoleOut v).input = s.input := rfl
@[simp] theorem State.consoleOut_output (v : Byte) : (s.consoleOut v).output = s.output ++ [v] := rfl
@[simp] theorem State.consoleOut_trace (v : Byte) : (s.consoleOut v).trace = s.trace := rfl

@[simp] theorem State.dropInput_regs : (s.dropInput).regs = s.regs := rfl
@[simp] theorem State.dropInput_pc : (s.dropInput).pc = s.pc := rfl
@[simp] theorem State.dropInput_sp : (s.dropInput).sp = s.sp := rfl
@[simp] theorem State.dropInput_codepage : (s.dropInput).codepage = s.codepage := rfl
@[simp] theorem State.dropInput_datapage : (s.dropInput).datapage = s.datapage := rfl
@[simp] theorem State.dropInput_stackpage : (s.dropInput).stackpage = s.stackpage := rfl
@[simp] theorem State.dropInput_halted : (s.dropInput).halted = s.halted := rfl
@[simp] theorem State.dropInput_fault : (s.dropInput).fault = s.fault := rfl
@[simp] theorem State.dropInput_mem : (s.dropInput).mem = s.mem := rfl
@[simp] theorem State.dropInput_input : (s.dropInput).input = s.input.tail := rfl
@[simp] theorem State.dropInput_output : (s.dropInput).output = s.output := rfl
@[simp] theorem State.dropInput_trace : (s.dropInput).trace = s.trace := rfl

@[simp] theorem State.writeBack_regs : (s.writeBack).regs = s.regs := rfl
@[simp] theorem State.writeBack_pc : (s.writeBack).pc = s.pc + 1 := rfl
@[simp] theorem State.writeBack_sp : (s.writeBack).sp = s.sp := rfl
@[simp] theorem State.writeBack_codepage : (s.writeBack).codepage = s.codepage := rfl
@[simp] theorem State.writeBack_datapage : (s.writeBack).datapage = s.datapage := rfl
@[simp] theorem State.writeBack_stackpage : (s.writeBack).stackpage = s.stackpage := rfl
@[simp] theorem State.writeBack_halted : (s.writeBack).halted = s.halted := rfl
@[simp] theorem State.writeBack_fault : (s.writeBack).fault = s.fault := rfl
@[simp] theorem State.writeBack_mem : (s.writeBack).mem = s.mem := rfl
@[simp] theorem State.writeBack_input : (s.writeBack).input = s.input := rfl
@[simp] theorem State.writeBack_output : (s.writeBack).output = s.output := rfl
@[simp] theorem State.writeBack_trace : (s.writeBack).trace = s.trace := rfl

@[simp] theorem State.emitTrace_regs (i : Instr) : (s.emitTrace i).regs = s.regs := rfl
@[simp] theorem State.emitTrace_pc (i : Instr) : (s.emitTrace i).pc = s.pc := rfl
@[simp] theorem State.emitTrace_sp (i : Instr) : (s.emitTrace i).sp = s.sp := rfl
@[simp] theorem State.emitTrace_codepage (i : Instr) : (s.emitTrace i).codepage = s.codepage := rfl
@[simp] theorem State.emitTrace_datapage (i : Instr) : (s.emitTrace i).datapage = s.datapage := rfl
@[simp] theorem State.emitTrace_stackpage (i : Instr) : (s.emitTrace i).stackpage = s.stackpage := rfl
@[simp] theorem State.emitTrace_halted (i : Instr) : (s.emitTrace i).halted = s.halted := rfl
@[simp] theorem State.emitTrace_fault (i : Instr) : (s.emitTrace i).fault = s.fault := rfl
@[simp] theorem State.emitTrace_mem (i : Instr) : (s.emitTrace i).mem = s.mem := rfl
@[simp] theorem State.emitTrace_input (i : Instr) : (s.emitTrace i).input = s.input := rfl
@[simp] theorem State.emitTrace_output (i : Instr) : (s.emitTrace i).output = s.output := rfl
@[simp] theorem State.emitTrace_trace (i : Instr) : (s.emitTrace i).trace = s.trace ++ [traceRecord i s] := rfl

@[simp] theorem State.takeFault_regs (c : FaultCause) (b : Byte) : (s.takeFault c b).regs = s.regs := rfl
@[simp] theorem State.takeFault_pc (c : FaultCause) (b : Byte) : (s.takeFault c b).pc = s.pc := rfl
@[simp] theorem State.takeFault_sp (c : FaultCause) (b : Byte) : (s.takeFault c b).sp = s.sp := rfl
@[simp] theorem State.takeFault_codepage (c : FaultCause) (b : Byte) : (s.takeFault c b).codepage = s.codepage := rfl
@[simp] theorem State.takeFault_datapage (c : FaultCause) (b : Byte) : (s.takeFault c b).datapage = s.datapage := rfl
@[simp] theorem State.takeFault_stackpage (c : FaultCause) (b : Byte) : (s.takeFault c b).stackpage = s.stackpage := rfl
@[simp] theorem State.takeFault_halted (c : FaultCause) (b : Byte) : (s.takeFault c b).halted = s.halted := rfl
@[simp] theorem State.takeFault_fault (c : FaultCause) (b : Byte) : (s.takeFault c b).fault = some ⟨c, b, s.codepage, s.pc⟩ := rfl
@[simp] theorem State.takeFault_mem (c : FaultCause) (b : Byte) : (s.takeFault c b).mem = s.mem := rfl
@[simp] theorem State.takeFault_input (c : FaultCause) (b : Byte) : (s.takeFault c b).input = s.input := rfl
@[simp] theorem State.takeFault_output (c : FaultCause) (b : Byte) : (s.takeFault c b).output = s.output := rfl
@[simp] theorem State.takeFault_trace (c : FaultCause) (b : Byte) : (s.takeFault c b).trace = s.trace := rfl

end Sys2Proof.Machine
end

