-- ==== Sys2Proof/Laws/Memory.lean ====
section
/-! SUPPORT. The memory: what a read gives after a write, and that every memory operation keeps the canonical form. -/

namespace Sys2Proof.Machine

/-- An entry above the wanted index ends the search. -/
theorem Memory.read_of_lt (k n : Nat) (v : Byte) (m : Memory) (h : n < k) :
    Memory.read ((k, v) :: m) n = unwrittenByte := by
  simp [Memory.read, h]

/-- Entries at or below `lo` do not matter to a read above `lo`. -/
theorem Memory.read_dropWhile (m : Memory) (lo n : Nat) (h : lo < n) :
    Memory.read (m.dropWhile (fun e => decide (e.1 ≤ lo))) n = Memory.read m n := by
  induction m with
  | nil => rfl
  | cons e m ih =>
    obtain ⟨k, v⟩ := e
    by_cases hk : k ≤ lo
    · have h1 : ¬ n < k := by omega
      have h2 : ¬ n = k := by omega
      simpa [List.dropWhile_cons, hk, Memory.read, h1, h2] using ih
    · simp [hk]

/-- After the entries at or below `lo` are gone, every cell at or below `lo` reads as unwritten. -/
theorem Memory.read_dropWhile_le (m : Memory) (lo n : Nat) (h : n ≤ lo) :
    Memory.read (m.dropWhile (fun e => decide (e.1 ≤ lo))) n = unwrittenByte := by
  induction m with
  | nil => rfl
  | cons e m ih =>
    obtain ⟨k, v⟩ := e
    by_cases hk : k ≤ lo
    · simpa [List.dropWhile_cons, hk] using ih
    · have h1 : n < k := by omega
      simp [hk, Memory.read, h1]

/-- Read after write, for EVERY list: the written cell reads the value, every other cell reads as before. -/
theorem Memory.read_write (m : Memory) (n : Nat) (v : Byte) (j : Nat) :
    (m.write n v).read j = if j = n then v else m.read j := by
  induction m with
  | nil =>
    by_cases hv : v = unwrittenByte
    · simp [Memory.write, Memory.read, hv]
    · by_cases hj : j = n
      · simp [Memory.write, Memory.read, hv, hj]
      · simp [Memory.write, Memory.read, hv, hj]
  | cons e m ih =>
    obtain ⟨k, w⟩ := e
    rcases Nat.lt_trichotomy n k with h | h | h
    · by_cases hv : v = unwrittenByte
      · by_cases hj : j = n
        · simp [Memory.write, Memory.read, h, hv, hj]
        · simp [Memory.write, h, hv, hj]
      · by_cases hj : j = n
        · simp [Memory.write, Memory.read, h, hv, hj]
        · by_cases hlt : j < n
          · have h1 : j < k := by omega
            simp [Memory.write, Memory.read, h, hv, hj, hlt, h1]
          · simp [Memory.write, Memory.read, h, hv, hj, hlt]
    · subst h
      by_cases hv : v = unwrittenByte
      · rcases Nat.lt_trichotomy j n with hj | hj | hj
        · have h1 : ¬ j = n := by omega
          simp [Memory.write, Memory.read, hv, hj, h1, Memory.read_dropWhile_le m n j (by omega)]
        · simp [Memory.write, hv, hj, Memory.read_dropWhile_le m n n (Nat.le_refl n)]
        · have h1 : ¬ j = n := by omega
          have h2 : ¬ j < n := by omega
          simp [Memory.write, Memory.read, hv, h1, h2, Memory.read_dropWhile m n j hj]
      · by_cases hj : j = n
        · simp [Memory.write, Memory.read, hv, hj]
        · simp [Memory.write, Memory.read, hv, hj]
    · have h1 : ¬ n < k := by omega
      have h2 : ¬ n = k := by omega
      by_cases hjk : j < k
      · have h3 : ¬ j = n := by omega
        simp [Memory.write, Memory.read, h1, h2, hjk, h3]
      · by_cases hj : j = k
        · have h3 : ¬ k = n := by omega
          simp [Memory.write, Memory.read, h1, h2, hj, h3]
        · simp [Memory.write, Memory.read, h1, h2, hjk, hj, ih]

/-- A lower bound may be lowered. -/
theorem Memory.wfFrom_mono (m : Memory) (lo hi : Nat) (h : lo ≤ hi) (hm : Memory.wfFrom hi m = true) :
    Memory.wfFrom lo m = true := by
  cases m with
  | nil => rfl
  | cons e m =>
    obtain ⟨k, v⟩ := e
    simp only [Memory.wfFrom, Bool.and_eq_true, decide_eq_true_eq] at hm ⊢
    exact ⟨⟨⟨by omega, hm.1.1.2⟩, hm.1.2⟩, hm.2⟩

/-- In canonical form, dropping the entries at or below `lo` keeps the form. -/
theorem Memory.wfFrom_dropWhile (m : Memory) (lo n : Nat) (hm : Memory.wfFrom lo m = true) :
    Memory.wfFrom lo (m.dropWhile (fun e => decide (e.1 ≤ n))) = true := by
  induction m generalizing lo with
  | nil => rfl
  | cons e m ih =>
    obtain ⟨k, v⟩ := e
    by_cases hk : k ≤ n
    · simp only [Memory.wfFrom, Bool.and_eq_true, decide_eq_true_eq] at hm
      simpa [List.dropWhile_cons, hk] using ih lo (Memory.wfFrom_mono m lo (k + 1) (by omega) hm.2)
    · simpa [List.dropWhile_cons, hk] using hm

/-- A write to one of the 65,536 cells keeps the canonical form. -/
theorem Memory.wfFrom_write (m : Memory) (lo n : Nat) (v : Byte) (hlo : lo ≤ n) (hn : n < 65536)
    (hm : Memory.wfFrom lo m = true) : Memory.wfFrom lo (m.write n v) = true := by
  induction m generalizing lo with
  | nil =>
    by_cases hv : v = unwrittenByte
    · simp [Memory.write, Memory.wfFrom, hv]
    · simp [Memory.write, Memory.wfFrom, hv, hlo, hn]
  | cons e m ih =>
    obtain ⟨k, w⟩ := e
    have hm' := hm
    simp only [Memory.wfFrom, Bool.and_eq_true, decide_eq_true_eq] at hm'
    obtain ⟨⟨⟨h1, h2⟩, h3⟩, h4⟩ := hm'
    rcases Nat.lt_trichotomy n k with h | h | h
    · by_cases hv : v = unwrittenByte
      · simpa [Memory.write, h, hv] using hm
      · have h5 : n + 1 ≤ k := by omega
        simp [Memory.write, Memory.wfFrom, h, hv, hlo, hn, h2, h3, h4, h5]
    · subst h
      by_cases hv : v = unwrittenByte
      · simpa [Memory.write, hv] using
          Memory.wfFrom_dropWhile m lo n (Memory.wfFrom_mono m lo (n + 1) (by omega) h4)
      · simp [Memory.write, Memory.wfFrom, hv, hlo, hn, h4]
    · have h5 : ¬ n < k := by omega
      have h6 : ¬ n = k := by omega
      simp [Memory.write, Memory.wfFrom, h5, h6, h1, h2, h3, ih (k + 1) (by omega) h4]

/-- The index of a cell is one of the 65,536. -/
theorem cellIndex_lt (p a : Byte) : cellIndex p a < 65536 := by
  have hp := p.isLt
  have ha := a.isLt
  unfold cellIndex
  omega

/-- Different cells have different indices (20_memory.md R40). -/
theorem cellIndex_inj (p a q b : Byte) : cellIndex p a = cellIndex q b ↔ p = q ∧ a = b := by
  have hp := p.isLt
  have ha := a.isLt
  have hq := q.isLt
  have hb := b.isLt
  constructor
  · intro h
    unfold cellIndex at h
    exact ⟨BitVec.eq_of_toNat_eq (by omega), BitVec.eq_of_toNat_eq (by omega)⟩
  · rintro ⟨rfl, rfl⟩
    rfl

/-- Every memory write keeps the canonical form. -/
theorem State.memWrite_wf (s : State) (p a v : Byte) (h : s.mem.wf = true) : (s.memWrite p a v).mem.wf = true :=
  Memory.wfFrom_write s.mem 0 (cellIndex p a) v (Nat.zero_le _) (cellIndex_lt p a) h

/-- The reset memory has the canonical form. -/
theorem State.reset_mem_wf : State.reset.mem.wf = true := rfl

/-- Read after write of a cell: the written cell reads the value, every other cell reads as before. -/
theorem State.memRead_memWrite (s : State) (p a v q b : Byte) :
    (s.memWrite p a v).memRead q b = if q = p ∧ b = a then v else s.memRead q b := by
  simp only [State.memRead, State.memWrite, Memory.read_write, cellIndex_inj]

/-- The written cell reads the value. -/
@[simp] theorem State.memRead_memWrite_same (s : State) (p a v : Byte) : (s.memWrite p a v).memRead p a = v := by
  simp [State.memRead_memWrite]

end Sys2Proof.Machine
end

