-- ==== Sys2Proof/Laws/HostInterface.lean ====
section
/-! SUPPORT. What the host's operations leave, so that no proof unfolds one. -/

namespace Sys2Proof.Machine

variable (s : State)

@[simp] theorem State.hostReset_regs : s.hostReset.regs = State.reset.regs := rfl
@[simp] theorem State.hostReset_pc : s.hostReset.pc = State.reset.pc := rfl
@[simp] theorem State.hostReset_sp : s.hostReset.sp = State.reset.sp := rfl
@[simp] theorem State.hostReset_codepage : s.hostReset.codepage = State.reset.codepage := rfl
@[simp] theorem State.hostReset_datapage : s.hostReset.datapage = State.reset.datapage := rfl
@[simp] theorem State.hostReset_stackpage : s.hostReset.stackpage = State.reset.stackpage := rfl
@[simp] theorem State.hostReset_halted : s.hostReset.halted = State.reset.halted := rfl
@[simp] theorem State.hostReset_fault : s.hostReset.fault = State.reset.fault := rfl
@[simp] theorem State.hostReset_mem : s.hostReset.mem = State.reset.mem := rfl
@[simp] theorem State.hostReset_input : s.hostReset.input = s.input := rfl
@[simp] theorem State.hostReset_output : s.hostReset.output = s.output := rfl
@[simp] theorem State.hostReset_trace : s.hostReset.trace = s.trace := rfl

/-- A write batch changes memory only. -/
theorem State.pokeAll_frame (batch : List Byte) : ∃ m, s.pokeAll batch = { s with mem := m } := by
  induction s, batch using State.pokeAll.induct with
  | case1 s p a v rest ih =>
    obtain ⟨m, h⟩ := ih
    exact ⟨m, by rw [State.pokeAll, h]; rfl⟩
  | case2 batch s h => exact ⟨s.mem, by rw [State.pokeAll]; exact h⟩

/-- A program load changes memory only. -/
theorem State.loadFrom_frame (advance : Bool) (p0 : Byte) (program : List Byte) :
    ∀ (i : Nat) (s : State), ∃ m, State.loadFrom advance p0 i program s = { s with mem := m } := by
  induction program with
  | nil => exact fun _ s => ⟨s.mem, rfl⟩
  | cons b rest ih =>
    intro i s
    obtain ⟨m, h⟩ := ih (i + 1) (s.memWrite (loadPage advance p0 i) (loadOffset i) b)
    exact ⟨m, by rw [State.loadFrom, h]; rfl⟩

/-- Everything a host command that is taken can do to the core: a reset, or a change of memory only. -/
theorem Session.command_cases (x y : Session) (c : HostCommand) (out : List Byte) (h : x.command c = .ok (y, out)) :
    x.inRun = false ∧
    ((c = .reset ∧ y = ⟨x.core.hostReset, false⟩) ∨
      (c = .start ∧ y = ⟨x.core, x.core.canRun⟩) ∨
      (c ≠ .reset ∧ c ≠ .start ∧ ∃ m, y = ⟨{ x.core with mem := m }, false⟩)) := by
  obtain ⟨s, inRun⟩ := x
  cases inRun with
  | true => cases h
  | false =>
    refine ⟨rfl, ?_⟩
    cases c with
    | reset => cases h; exact .inl ⟨rfl, rfl⟩
    | start => cases h; exact .inr (.inl ⟨rfl, rfl⟩)
    | poke p a v => cases h; exact .inr (.inr ⟨nofun, nofun, _, rfl⟩)
    | peek p a => cases h; exact .inr (.inr ⟨nofun, nofun, s.mem, rfl⟩)
    | load program =>
      cases h
      obtain ⟨m, e⟩ := State.loadFrom_frame Config.loadPageAdvance s.codepage program 0 s
      exact .inr (.inr ⟨nofun, nofun, m, congrArg (Session.mk · false) e⟩)
    | writeMacro batch =>
      obtain ⟨m, e⟩ := State.pokeAll_frame s batch
      cases hw : writeBatchWellFormed batch <;> simp [Session.command, State.writeMacro, hw] at h
      obtain ⟨rfl, rfl⟩ := h
      exact .inr (.inr ⟨nofun, nofun, m, congrArg (Session.mk · false) e⟩)
    | readMacro batch =>
      cases hw : readBatchWellFormed batch <;> simp [Session.command, State.readMacro, hw] at h
      obtain ⟨rfl, rfl⟩ := h
      exact .inr (.inr ⟨nofun, nofun, s.mem, rfl⟩)

end Sys2Proof.Machine
end

