-- ==== Sys2Proof/Laws/Ops.lean ====
section
/-! SUPPORT. One lemma per shared operation that says once what it does, and what a step can do. -/

namespace Sys2Proof.Machine

/-! ### Registers -/

/-- Reading the register file after a write. -/
theorem Registers.get_set (g : Registers) (r q : Reg) (v : Byte) :
    (g.set r v).get q = if q = r then v else g.get q := by
  cases r <;> cases q <;> rfl

/-- Reading a register after a write. -/
theorem State.reg_setReg (s : State) (r q : Reg) (v : Byte) :
    (s.setReg r v).reg q = if q = r then v else s.reg q := Registers.get_set s.regs r q v

@[simp] theorem State.reg_setReg_same (s : State) (r : Reg) (v : Byte) : (s.setReg r v).reg r = v := by
  simp [State.reg_setReg]

/-- Registers are a function of the register file alone. -/
theorem State.reg_congr (s t : State) (h : t.regs = s.regs) (r : Reg) : t.reg r = s.reg r := by
  simp [State.reg, h]

/-- A cell's value is a function of the memory alone. -/
theorem State.memRead_congr (s t : State) (h : t.mem = s.mem) (p a : Byte) : t.memRead p a = s.memRead p a := by
  simp [State.memRead, h]

/-! ### The ends of a cycle -/

/-- All that `retire` does: it answers the state after write-back and trace. -/
theorem retire_next (i : Instr) (s t : State) : retire i s = .next t ↔ t = s.writeBack.emitTrace i := by
  simp [retire, eq_comm]

/-- What `retire` leaves, field by field. -/
theorem retire_fields (i : Instr) (s : State) : ∃ t, retire i s = .next t ∧ t.regs = s.regs ∧ t.pc = s.pc + 1 ∧
    t.sp = s.sp ∧ t.codepage = s.codepage ∧ t.datapage = s.datapage ∧ t.stackpage = s.stackpage ∧
    t.halted = s.halted ∧ t.fault = s.fault ∧ t.mem = s.mem ∧ t.input = s.input ∧ t.output = s.output ∧
    t.trace = s.trace ++ [traceRecord i s.writeBack] :=
  ⟨s.writeBack.emitTrace i, rfl, rfl, rfl, rfl, rfl, rfl, rfl, rfl, rfl, rfl, rfl, rfl, rfl⟩

/-- All that `raiseFault` does: it answers the state with the latch set. -/
theorem raiseFault_next (c : FaultCause) (b : Byte) (s t : State) :
    raiseFault c b s = .next t ↔ t = s.takeFault c b := by
  simp [raiseFault, eq_comm]

/-- All that `hold` does: it answers the same state. -/
theorem hold_next (s t : State) : hold s = .next t ↔ t = s := by
  simp [hold, eq_comm]

/-! ### Control transfer -/

/-- All that `skipIf` does: `pc`, and nothing else. -/
theorem State.skipIf_eq (s : State) (taken : Bool) :
    s.skipIf taken = { s with pc := if taken then s.pc + 1 else s.pc } := by
  cases taken <;> rfl

/-- What a jump puts in `pc` lands on the target after the write-back (44_jump.md R146). -/
theorem beforeTarget_add_one (v : Byte) : beforeTarget v + 1 = v := by
  simp [beforeTarget]

/-- All that `jumpTo` does: `pc`, and nothing else. -/
theorem State.jumpTo_eq (s : State) (r : Reg) : s.jumpTo r = { s with pc := s.reg r - 1 } := rfl

/-- All that `link` does: one register, and nothing else. -/
theorem State.link_eq (s : State) (r : Reg) : s.link r = { s with regs := s.regs.set r (s.pc + 1) } := rfl

/-- All that `loadFarPage` does: `codepage`, and nothing else. -/
theorem State.loadFarPage_eq (s : State) : s.loadFarPage = { s with codepage := s.reg .c } := rfl

/-! ### Run state and step -/

/-- The run loop goes on exactly in the run state Running (70_reset_and_hazards.md R212). -/
theorem State.canRun_iff (s : State) : s.canRun = true ↔ s.halted = false ∧ s.fault = none := by
  simp [State.canRun]

/-- Everything a step can do. -/
theorem step_cases (s t : State) (h : step s = .next t) :
    (s.canRun = false ∧ t = s) ∨
    (s.canRun = true ∧ ∃ i, decode s.fetchByte = .legal i ∧ exec i s = .next t) ∨
    (s.canRun = true ∧ decode s.fetchByte = .illegalOpcode s.fetchByte ∧
      t = s.takeFault .illegalOpcode s.fetchByte) := by
  unfold step at h
  cases hr : s.canRun with
  | false =>
    simp only [hr] at h
    exact .inl ⟨rfl, (hold_next s t).1 h⟩
  | true =>
    simp only [hr, if_true] at h
    cases hd : decode s.fetchByte with
    | legal i =>
      rw [hd] at h
      exact .inr (.inl ⟨rfl, i, rfl, h⟩)
    | illegalOpcode b =>
      have hb : b = s.fetchByte := by
        unfold decode at hd
        split at hd
        · cases hd
        · injection hd with h'
          exact h'.symm
      rw [hd] at h
      subst hb
      exact .inr (.inr ⟨rfl, rfl, (raiseFault_next _ _ _ _).1 h⟩)

/-- Everything an instruction can do: it retires from some state of its own making, or it is an IN that faults or
holds. -/
theorem exec_cases (i : Instr) (s t : State) (h : exec i s = .next t) :
    (∃ u : State, t = u.writeBack.emitTrace i ∧ u.fault = s.fault ∧ u.trace = s.trace) ∨
    (∃ rd rest, i = .inp rd ∧ s.input = .invalid :: rest ∧ t = s.dropInput.takeFault .invalidInput (encode i)) ∨
    (∃ rd, i = .inp rd ∧ s.input = [] ∧ t = s) := by
  cases i with
  | inp rd =>
    simp only [exec, execInp] at h
    split at h
    · exact .inl ⟨_, (retire_next _ _ _).1 h, rfl, rfl⟩
    · rename_i rest hin
      exact .inr (.inl ⟨rd, rest, rfl, hin, (raiseFault_next _ _ _ _).1 h⟩)
    · rename_i hin
      exact .inr (.inr ⟨rd, rfl, hin, (hold_next _ _).1 h⟩)
  | skipz rd => exact .inl ⟨_, (retire_next _ _ _).1 h, by simp [State.skipIf_eq], by simp [State.skipIf_eq]⟩
  | skipnz rd => exact .inl ⟨_, (retire_next _ _ _).1 h, by simp [State.skipIf_eq], by simp [State.skipIf_eq]⟩
  | skipl rd => exact .inl ⟨_, (retire_next _ _ _).1 h, by simp [State.skipIf_eq], by simp [State.skipIf_eq]⟩
  | skipge rd => exact .inl ⟨_, (retire_next _ _ _).1 h, by simp [State.skipIf_eq], by simp [State.skipIf_eq]⟩
  | _ => exact .inl ⟨_, (retire_next _ _ _).1 h, rfl, rfl⟩

end Sys2Proof.Machine
end

