-- ==== Sys2Proof/Laws/PerInstr.lean ====
section
/-! SUPPORT. Families of facts about each instruction as syntax, one lemma per constructor. -/

namespace Sys2Proof.Laws

/-- The byte of an instruction fits the instruction's own row of the opcode map, and no other row
(30_encoding.md R66). -/
def EncodingRow.Statement (i : Instr) : Prop :=
  ∀ v, (opcodeRow v).fits (encode i) = true ↔ v = i.variant

theorem EncodingRow.nop : EncodingRow.Statement .nop := by
  intro v; cases v <;> decide

theorem EncodingRow.halt (ignored : BitVec 2) : EncodingRow.Statement (.halt ignored) := by
  intro v; revert ignored; cases v <;> decide

theorem EncodingRow.page (rd : Reg) : EncodingRow.Statement (.page rd) := by
  intro v; cases rd <;> cases v <;> decide

theorem EncodingRow.sub (rd rs : Reg) : EncodingRow.Statement (.sub rd rs) := by
  intro v; cases rd <;> cases rs <;> cases v <;> decide

theorem EncodingRow.load (rd rs : Reg) : EncodingRow.Statement (.load rd rs) := by
  intro v; cases rd <;> cases rs <;> cases v <;> decide

theorem EncodingRow.store (rd rs : Reg) : EncodingRow.Statement (.store rd rs) := by
  intro v; cases rd <;> cases rs <;> cases v <;> decide

theorem EncodingRow.skipz (rd : Reg) : EncodingRow.Statement (.skipz rd) := by
  intro v; cases rd <;> cases v <;> decide

theorem EncodingRow.skipnz (rd : Reg) : EncodingRow.Statement (.skipnz rd) := by
  intro v; cases rd <;> cases v <;> decide

theorem EncodingRow.skipl (rd : Reg) : EncodingRow.Statement (.skipl rd) := by
  intro v; cases rd <;> cases v <;> decide

theorem EncodingRow.skipge (rd : Reg) : EncodingRow.Statement (.skipge rd) := by
  intro v; cases rd <;> cases v <;> decide

theorem EncodingRow.jalr (rd rs : Reg) : EncodingRow.Statement (.jalr rd rs) := by
  intro v; cases rd <;> cases rs <;> cases v <;> decide

theorem EncodingRow.nand (rd rs : Reg) : EncodingRow.Statement (.nand rd rs) := by
  intro v; cases rd <;> cases rs <;> cases v <;> decide

theorem EncodingRow.add (rd rs : Reg) : EncodingRow.Statement (.add rd rs) := by
  intro v; cases rd <;> cases rs <;> cases v <;> decide

theorem EncodingRow.inc (rd : Reg) : EncodingRow.Statement (.inc rd) := by
  intro v; cases rd <;> cases v <;> decide

theorem EncodingRow.dec (rd : Reg) : EncodingRow.Statement (.dec rd) := by
  intro v; cases rd <;> cases v <;> decide

theorem EncodingRow.out (rd : Reg) : EncodingRow.Statement (.out rd) := by
  intro v; cases rd <;> cases v <;> decide

theorem EncodingRow.inp (rd : Reg) : EncodingRow.Statement (.inp rd) := by
  intro v; cases rd <;> cases v <;> decide

theorem EncodingRow.jmpfar (rd rs : Reg) : EncodingRow.Statement (.jmpfar rd rs) := by
  intro v; cases rd <;> cases rs <;> cases v <;> decide

theorem EncodingRow.push (rd : Reg) : EncodingRow.Statement (.push rd) := by
  intro v; cases rd <;> cases v <;> decide

theorem EncodingRow.pop (rd : Reg) : EncodingRow.Statement (.pop rd) := by
  intro v; cases rd <;> cases v <;> decide

theorem EncodingRow.stackpage (rd : Reg) : EncodingRow.Statement (.stackpage rd) := by
  intro v; cases rd <;> cases v <;> decide

theorem EncodingRow.sli (rd : Reg) (imm : BitVec 4) : EncodingRow.Statement (.sli rd imm) := by
  intro v; revert imm; cases rd <;> cases v <;> decide

end Sys2Proof.Laws
end

