-- ==== Sys2Proof/Laws/Run.lean ====
section
/-! SUPPORT. Runs of several steps, one step at a time. -/

namespace Sys2Proof.Machine

/-- One more step at the front of a run, of any machine. -/
theorem core_run_succ (M : Host.Core) (k : Nat) (s t : M.State) (h : M.step s = .next t) :
    M.run (k + 1) s = M.run k t := by
  simp only [Host.Core.run, h]

/-- A run of no steps stays where it is. -/
theorem reaches_zero (s t : State) : Reaches 0 s t ↔ t = s := by
  constructor
  · intro h
    injection h with h
    exact h.symm
  · rintro rfl
    rfl

/-- A run of `k + 1` steps is a step and a run of `k` steps. -/
theorem reaches_succ (k : Nat) (s t u : State) (h : step s = .next u) : Reaches (k + 1) s t ↔ Reaches k u t := by
  have e : Sys2Proof.core.run (k + 1) s = Sys2Proof.core.run k u := core_run_succ Sys2Proof.core k s u h
  simp only [Reaches, e]

end Sys2Proof.Machine
end

