-- ==== Sys2Proof/Tests/Slice0.lean ====
section
/-! SUPPORT. The model's own tests. Expected results are the spec's: the encodings of 30_encoding.md R66 and R73, and the
vectors V1 to V82 and H1 to H13 of 95_test_vectors.md, named where one is used. -/

namespace Sys2Proof.Tests

open Sys2Proof Sys2Proof.Machine

/-- The reset state with A, B, C, D set and the byte `w` where the first fetch is. -/
def boot (w : Nat) (a b c d : Byte) : State := ({ State.reset with regs := ⟨a, b, c, d⟩ }).withFetchWord 8 w

/-- The same at offset `pc` of page 0. -/
def bootAt (pc : Byte) (w : Nat) (a b c d : Byte) : State :=
  ({ State.reset with pc := pc, regs := ⟨a, b, c, d⟩ }).withFetchWord 8 w

/-- One step, and a look at the state after it. -/
def look {α : Type} (f : State → α) (s : State) : Option α :=
  match step s with
  | .next t => some (f t)
  | .fault _ => none
  | .refused _ => none

/-! ### Well-formedness: each check refuses an ill-formed term -/

theorem test_illegal_groups_are_refused :
    isInstructionByte 0x04 = false ∧ isInstructionByte 0x0F = false ∧ isInstructionByte 0xA3 = false ∧
    isInstructionByte 0xB0 = false := by decide

theorem test_halt_with_any_rd_bits_is_legal :
    isInstructionByte 0x01 = true ∧ isInstructionByte 0x05 = true ∧ isInstructionByte 0x0D = true := by decide

theorem test_row_refuses_other_byte : (opcodeRow .halt).fits 0x02 = false := by decide

theorem test_write_batch_of_four_is_refused : writeBatchWellFormed [0x01, 0xFE, 0x02, 0x05] = false := by decide

theorem test_read_batch_of_three_is_refused : readBatchWellFormed [0x02, 0x10, 0x02] = false := by decide

/-! ### Decoding: one word per constructor, written out from the bit layout -/

theorem test_decode_nop : decodeTableWord 8 0b00000000 = some .nop := by decide
theorem test_decode_halt : decodeTableWord 8 0b00001101 = some (.halt 0b11) := by decide
theorem test_decode_page : decodeTableWord 8 0b00001110 = some (.page .d) := by decide
theorem test_decode_sub : decodeTableWord 8 0b00011011 = some (.sub .c .d) := by decide
theorem test_decode_load : decodeTableWord 8 0b00101110 = some (.load .d .c) := by decide
theorem test_decode_store : decodeTableWord 8 0b00110010 = some (.store .a .c) := by decide
theorem test_decode_skipz : decodeTableWord 8 0b01000000 = some (.skipz .a) := by decide
theorem test_decode_skipnz : decodeTableWord 8 0b01000101 = some (.skipnz .b) := by decide
theorem test_decode_skipl : decodeTableWord 8 0b01001010 = some (.skipl .c) := by decide
theorem test_decode_skipge : decodeTableWord 8 0b01001111 = some (.skipge .d) := by decide
theorem test_decode_jalr : decodeTableWord 8 0b01010111 = some (.jalr .b .d) := by decide
theorem test_decode_nand : decodeTableWord 8 0b01100001 = some (.nand .a .b) := by decide
theorem test_decode_add : decodeTableWord 8 0b01111100 = some (.add .d .a) := by decide
theorem test_decode_inc : decodeTableWord 8 0b10000000 = some (.inc .a) := by decide
theorem test_decode_dec : decodeTableWord 8 0b10000101 = some (.dec .b) := by decide
theorem test_decode_out : decodeTableWord 8 0b10001010 = some (.out .c) := by decide
theorem test_decode_inp : decodeTableWord 8 0b10001111 = some (.inp .d) := by decide
theorem test_decode_jmpfar : decodeTableWord 8 0b10010001 = some (.jmpfar .a .b) := by decide
theorem test_decode_push : decodeTableWord 8 0b10101100 = some (.push .d) := by decide
theorem test_decode_pop : decodeTableWord 8 0b10100101 = some (.pop .b) := by decide
theorem test_decode_stackpage : decodeTableWord 8 0b10101010 = some (.stackpage .c) := by decide
theorem test_decode_sli : decodeTableWord 8 0b11100110 = some (.sli .b 0b1010) := by decide

theorem test_decode_illegal_names_the_byte : decode 0xB7 = .illegalOpcode 0xB7 := by decide

theorem test_decoder_outputs_of_an_illegal_byte : decoderOutputs 0xAF = ⟨none, true, 3, 3, 0xB⟩ := by decide

/-! ### One step each -/

theorem test_nop_wraps_pc_V2 : look (fun t => (t.pc, t.codepage, t.reg .a)) (bootAt 0xFF 0x00 0x12 0 0 0) =
    some (0x00, 0x00, 0x12) := by decide

theorem test_halt_V4 : look (fun t => (t.halted, t.pc)) (bootAt 0xFF 0x01 0 0 0 0) = some (true, 0x00) := by decide

theorem test_halt_ignores_rd_V6 : look (fun t => (t.halted, t.reg .d)) (boot 0x0D 0 0 0 0x77) = some (true, 0x77) := by
  decide

theorem test_page_V7 : look (fun t => (t.datapage, t.pc)) (bootAt 0x20 0x02 0x07 0 0 0) = some (0x07, 0x21) := by decide

theorem test_load_V10 : look (fun t => (t.reg .d, t.pc)) ((boot 0x2E 0 0 0x03 0).poke 0x01 0x03 0x3A) =
    some (0x3A, 0x01) := by decide

theorem test_load_same_register_V11 : look (fun t => t.reg .a) ((boot 0x20 0x10 0 0 0).poke 0x01 0x10 0x99) =
    some 0x99 := by decide

theorem test_store_V15 : look (fun t => (t.memRead 0x01 0x03, t.pc)) (bootAt 0x06 0x32 0x3A 0 0x03 0) =
    some (0x3A, 0x07) := by decide

theorem test_store_last_cell_V18 : look (fun t => t.memRead 0x80 0xFF)
    { boot 0x3B 0 0 0xEE 0xFF with datapage := 0x80 } = some 0xEE := by decide

theorem test_add_wraps_V19 : look (fun t => (t.reg .a, t.reg .b)) (boot 0x71 0xFF 0x02 0 0) = some (0x01, 0x02) := by
  decide

theorem test_add_doubles_V22 : look (fun t => t.reg .a) (boot 0x70 0x81 0 0 0) = some 0x02 := by decide

theorem test_sub_wraps_V25 : look (fun t => t.reg .a) (boot 0x11 0x41 0x42 0 0) = some 0xFF := by decide

theorem test_sub_operand_order_V28 : look (fun t => t.reg .b) (boot 0x14 0x01 0x80 0 0) = some 0x7F := by decide

theorem test_nand_V29 : look (fun t => t.reg .a) (boot 0x61 0xCC 0xAA 0 0) = some 0x77 := by decide

theorem test_nand_complements_V30 : look (fun t => t.reg .a) (boot 0x60 0x0F 0 0 0) = some 0xF0 := by decide

theorem test_inc_wraps_V33 : look (fun t => t.reg .a) (boot 0x80 0xFF 0 0 0) = some 0x00 := by decide

theorem test_dec_wraps_V35 : look (fun t => t.reg .a) (boot 0x81 0x00 0 0 0) = some 0xFF := by decide

theorem test_sli_drops_high_nibble_V40 : look (fun t => t.reg .a) (boot 0xE2 0x5C 0 0 0) = some 0xCA := by decide

theorem test_sli_joins_immediate_V43 : look (fun t => t.reg .c) (boot 0xDA 0 0 0x81 0) = some 0x16 := by decide

theorem test_skipz_zero_and_one : look (fun t => t.pc) (bootAt 0x20 0x44 0 0x00 0 0) = some 0x22 ∧
    look (fun t => t.pc) (bootAt 0x20 0x44 0 0x01 0 0) = some 0x21 := by decide

theorem test_skipz_wraps_V45 : look (fun t => (t.pc, t.codepage)) (bootAt 0xFF 0x40 0 0 0 0) = some (0x01, 0x00) := by
  decide

theorem test_skipnz_zero_and_one : look (fun t => t.pc) (bootAt 0x20 0x45 0 0x00 0 0) = some 0x21 ∧
    look (fun t => t.pc) (bootAt 0x20 0x45 0 0x01 0 0) = some 0x22 := by decide

theorem test_skipl_boundary : look (fun t => t.pc) (bootAt 0x20 0x46 0 0x7F 0 0) = some 0x21 ∧
    look (fun t => t.pc) (bootAt 0x20 0x46 0 0x80 0 0) = some 0x22 := by decide

theorem test_skipl_passes_illegal_byte_V47 : look (fun t => (t.pc, t.fault))
    ((bootAt 0x10 0x4E 0 0 0 0x80).poke 0x00 0x11 0xB0) = some (0x12, none) := by decide

theorem test_skipge_boundary : look (fun t => t.pc) (bootAt 0x20 0x47 0 0x7F 0 0) = some 0x22 ∧
    look (fun t => t.pc) (bootAt 0x20 0x47 0 0x80 0 0) = some 0x21 := by decide

theorem test_jalr_V49 : look (fun t => (t.reg .b, t.pc)) (bootAt 0x03 0x57 0 0 0 0x08) = some (0x04, 0x08) := by decide

theorem test_jalr_same_register_V51 : look (fun t => (t.reg .a, t.pc)) (bootAt 0x10 0x50 0x80 0 0 0) =
    some (0x11, 0x11) := by decide

theorem test_jmpfar_V55 : look (fun t => (t.reg .b, t.pc, t.codepage)) (bootAt 0x03 0x91 0x10 0 0x02 0) =
    some (0x04, 0x10, 0x02) := by decide

theorem test_jmpfar_link_in_c_V56 : look (fun t => (t.reg .c, t.pc, t.codepage)) (bootAt 0x03 0x92 0x10 0 0x02 0) =
    some (0x04, 0x10, 0x04) := by decide

theorem test_out_V63 : look (fun t => (t.output, t.pc)) (boot 0x82 0xE9 0 0 0) = some ([0xE9], 0x01) := by decide

theorem test_in_V67 : look (fun t => (t.reg .b, t.input, t.pc)) { boot 0x87 0 0 0 0 with input := [.byte 0xFF, .invalid] } =
    some (0xFF, [.invalid], 0x01) := by decide

theorem test_in_invalid_V68 : look (fun t => (t.fault, t.reg .c, t.input))
    { bootAt 0x09 0x8B 0 0 0x77 0 with input := [.invalid] } =
    some (some ⟨.invalidInput, 0x8B, 0x00, 0x09⟩, 0x77, []) := by decide

theorem test_push_V69 : look (fun t => (t.sp, t.memRead 0x00 0xFF, t.pc)) (bootAt 0x02 0xA0 0x07 0 0 0) =
    some (0xFF, 0x07, 0x03) := by decide

theorem test_push_on_its_page_V71 : look (fun t => (t.sp, t.memRead 0x03 0x00))
    { boot 0xAC 0 0 0 0xEE with sp := 0x01, stackpage := 0x03 } = some (0x00, 0xEE) := by decide

theorem test_pop_wraps_sp_V74 : look (fun t => (t.reg .d, t.sp, t.memRead 0x02 0xFF))
    { (boot 0xAD 0 0 0 0).poke 0x02 0xFF 0xC3 with sp := 0xFF, stackpage := 0x02 } = some (0xC3, 0x00, 0xC3) := by decide

theorem test_pop_reads_its_own_byte_V75 : look (fun t => (t.reg .b, t.sp)) (boot 0xA5 0 0 0 0) = some (0xA5, 0x01) := by
  decide

theorem test_stackpage_V76 : look (fun t => (t.stackpage, t.sp)) { boot 0xA6 0 0x03 0 0 with sp := 0xFE } =
    some (0x03, 0xFE) := by decide

theorem test_illegal_byte_V81 : look (fun t => (t.fault, t.pc, t.halted, t.trace))
    ({ State.reset with pc := 0x10, codepage := 0x02 }.withFetchWord 8 0xB0) =
    some (some ⟨.illegalOpcode, 0xB0, 0x02, 0x10⟩, 0x10, false, []) := by decide

theorem test_trace_of_halt : look (fun t => t.trace.map fun r => (r.variant, r.rd, r.byte, r.snapshot.pc, r.snapshot.halted))
    (boot 0x05 0 0 0 0) = some [(.halt, 1, 0x05, 0x01, true)] := by decide

theorem test_fault_codes : FaultCause.illegalOpcode.code = 1 ∧ FaultCause.invalidInput.code = 2 := by decide

/-! ### Host operations (95_test_vectors.md section 3.9) -/

theorem test_write_macro_later_wins_H1 :
    (State.reset.writeMacro [0x01, 0xFE, 0x02, 0x01, 0xFE, 0x09]).toOption.map (fun t => t.memRead 0x01 0xFE) =
    some 0x09 := by decide

theorem test_read_macro_H4 : (State.reset.poke 0x02 0x10 0xDC).readMacro [0x02, 0x10, 0x02, 0x11] = .ok [0xDC, 0x00] := rfl

theorem test_load_H6 : (State.reset.loadProgramWith false [0x80, 0xB7, 0x01]).peekAll [0x00, 0x00, 0x00, 0x01, 0x00, 0x02] =
    [0x80, 0xB7, 0x01] := by decide

theorem test_load_place_H8_H9 : loadPage false 0x00 257 = 0x00 ∧ loadPage true 0x00 257 = 0x01 ∧ loadOffset 257 = 0x01 := by
  decide

/-- H13, "any state": from a halted core and from a faulted one, each with an answer waiting and a value sent. -/
theorem test_host_reset_H13 :
    State.hostReset { boot 0x01 1 2 3 4 with halted := true, sp := 9, stackpage := 5, input := [.invalid], output := [0x41] } =
      { State.reset with input := [.invalid], output := [0x41] } ∧
    ((boot 0xB0 1 2 3 4).takeFault .illegalOpcode 0xB0).hostReset = State.reset := by decide

theorem test_session_runs_to_halt : ((Session.command ⟨boot 0x01 0 0 0 0, false⟩ .start).toOption.map
    fun p => (p.1.inRun, p.1.cycle.inRun, p.1.cycle.status)) = some (true, false, .halted, none) := by decide

/-! ### Witnesses: states and operands that meet the hypotheses of the statements that have some -/

/-- A state in which the console has answered with a byte, one with an invalid answer, and one with none. -/
theorem witness_console_hypotheses :
    ({ State.reset with input := [.byte 0xFF, .invalid] } : State).input = .byte 0xFF :: [.invalid] ∧
    ({ State.reset with input := [.invalid] } : State).input = .invalid :: [] ∧ State.reset.input = [] := by decide

/-- CompletedInstructionIsTracedOnce: an IN with a valid answer, and an instruction that is no IN. -/
theorem witness_CompletedInstructionIsTracedOnce :
    CanComplete (.inp .a) { State.reset with input := [.byte 0x41] } ∧ CanComplete .nop State.reset :=
  ⟨fun _ _ => ⟨0x41, [], rfl⟩, fun _ h => nomatch h⟩

/-- PushThenPopRestores, its inner hypotheses: a PUSH with `sp` wrapping, and the state one NOP later. -/
theorem witness_PushThenPopRestores : ∃ t u, exec (.push .a) State.reset = .next t ∧ exec .nop t = .next u ∧
    u.stackpage = t.stackpage ∧ u.sp = t.sp ∧ u.memRead t.stackpage t.sp = t.memRead t.stackpage t.sp ∧ t.sp = 0xFF :=
  ⟨_, _, rfl, rfl, rfl, rfl, rfl, rfl⟩

/-- JalrRoundTripReturns, its inner hypotheses: V49 then V50. -/
theorem witness_JalrRoundTripReturns : ∃ t, exec (.jalr .b .d) (bootAt 0x03 0x57 0 0 0 0x08) = .next t ∧
    (bootAt 0x0A 0x5D 0 0x04 0 0x08).reg .b = t.reg .b ∧ Reg.d ≠ Reg.b := ⟨_, rfl, rfl, by decide⟩

theorem witness_StepRunsTheDecodedInstruction :
    (boot 0x71 0 0 0 0).halted = false ∧ (boot 0x71 0 0 0 0).fault = none ∧
    decode ((boot 0x71 0 0 0 0).memRead (boot 0x71 0 0 0 0).codepage (boot 0x71 0 0 0 0).pc) = .legal (.add .a .b) := by
  decide

theorem witness_IllegalByteLatchesTheFault :
    (boot 0xBF 0 0 0 0).halted = false ∧ (boot 0xBF 0 0 0 0).fault = none ∧
    isInstructionByte ((boot 0xBF 0 0 0 0).memRead (boot 0xBF 0 0 0 0).codepage (boot 0xBF 0 0 0 0).pc) = false := by
  decide

/-- FaultsHaveExactlyTwoCauses and FaultsArePrecise: a step that latches each cause. -/
theorem witness_faulting_steps :
    (∃ t f, step (boot 0x04 0 0 0 0) = .next t ∧ (boot 0x04 0 0 0 0).fault = none ∧ t.fault = some f ∧ f.cause.code = 1) ∧
    (∃ t f, step { boot 0x83 0 0 0 0 with input := [.invalid] } = .next t ∧ (boot 0x83 0 0 0 0).fault = none ∧
      t.fault = some f ∧ f.cause.code = 2) := ⟨⟨_, _, rfl, rfl, rfl, rfl⟩, ⟨_, _, rfl, rfl, rfl, rfl⟩⟩

/-- StoppedCoreNeverMoves: a halted core, a faulted one, and one that runs. -/
theorem witness_StoppedCoreNeverMoves :
    ({ State.reset with halted := true } : State).halted = true ∧
    (State.reset.takeFault .illegalOpcode 0xB0).fault ≠ none ∧
    State.reset.halted = false ∧ State.reset.fault = none := by decide

/-- ResetLeavesTheSpecifiedState, its last clause: commands other than a reset, taken on a halted and on a faulted core. -/
theorem witness_ResetLeavesTheSpecifiedState :
    (∃ y out, Session.command ⟨{ State.reset with halted := true }, false⟩ .start = .ok (y, out)) ∧
    (∃ y out, Session.command ⟨State.reset.takeFault .illegalOpcode 0xB0, false⟩ (.poke 0x00 0x00 0x01) = .ok (y, out)) ∧
    HostCommand.start ≠ .reset ∧ HostCommand.poke 0x00 0x00 0x01 ≠ .reset :=
  ⟨⟨_, _, rfl⟩, ⟨_, _, rfl⟩, nofun, nofun⟩

/-- HaltedIsSetByHaltOnlyAndKept: a step that sets `halted`, and a run of two steps that keeps it. -/
theorem witness_HaltedIsSetByHaltOnlyAndKept :
    (∃ t, step (boot 0x01 0 0 0 0) = .next t ∧ (boot 0x01 0 0 0 0).halted = false ∧ t.halted = true) ∧
    Reaches 2 { State.reset with halted := true } { State.reset with halted := true } := ⟨⟨_, rfl, rfl, rfl⟩, rfl⟩

theorem witness_CodepageIsWrittenByJmpfarOnly : ∃ t, step (boot 0x91 0x10 0 0x02 0) = .next t ∧
    t.codepage ≠ (boot 0x91 0x10 0 0x02 0).codepage := ⟨_, rfl, by decide⟩

theorem witness_DatapageIsWrittenByPageOnly : ∃ t, step (boot 0x02 0x00 0 0 0) = .next t ∧
    t.datapage ≠ (boot 0x02 0x00 0 0 0).datapage := ⟨_, rfl, by decide⟩

theorem witness_StackpageIsWrittenByStackpageOnly : ∃ t, step (boot 0xA2 0xFF 0 0 0) = .next t ∧
    t.stackpage ≠ (boot 0xA2 0xFF 0 0 0).stackpage := ⟨_, rfl, by decide⟩

/-- StackPointerMovesByPushAndPopOnly: a PUSH and a POP. -/
theorem witness_StackPointerMovesByPushAndPopOnly :
    (∃ t, step (boot 0xA0 0 0 0 0) = .next t ∧ t.sp ≠ (boot 0xA0 0 0 0 0).sp) ∧
    (∃ t, step (boot 0xA1 0 0 0 0) = .next t ∧ t.sp ≠ (boot 0xA1 0 0 0 0).sp) := ⟨⟨_, rfl, by decide⟩, ⟨_, rfl, by decide⟩⟩

/-- MemoryIsWrittenByStoreAndPushOnly: a STORE and a PUSH that change a cell. -/
theorem witness_MemoryIsWrittenByStoreAndPushOnly :
    (∃ t, step (boot 0x30 0x42 0 0 0) = .next t ∧ t.memRead 0x01 0x42 ≠ (boot 0x30 0x42 0 0 0).memRead 0x01 0x42) ∧
    (∃ t, step (boot 0xA0 0x42 0 0 0) = .next t ∧ t.memRead 0x00 0xFF ≠ (boot 0xA0 0x42 0 0 0).memRead 0x00 0xFF) :=
  ⟨⟨_, rfl, by decide⟩, ⟨_, rfl, by decide⟩⟩

theorem witness_RegistersAreWrittenByTheirInstructionOnly : ∃ t, step (boot 0x80 0xFF 0 0 0) = .next t ∧
    t.reg .a ≠ (boot 0x80 0xFF 0 0 0).reg .a := ⟨_, rfl, by decide⟩

/-- TraceRecordsTellTheFetchedByte: a step that traces, and one that does not. -/
theorem witness_TraceRecordsTellTheFetchedByte :
    (∃ t, step State.reset = .next t ∧ t.trace ≠ State.reset.trace) ∧
    (∃ t, step (boot 0x83 0 0 0 0) = .next t ∧ t.trace = (boot 0x83 0 0 0 0).trace) := ⟨⟨_, rfl, by decide⟩, ⟨_, rfl, rfl⟩⟩

/-- SkippedCellHasNoEffect: each of the four skips taken, at the boundary of its condition. -/
theorem witness_SkippedCellHasNoEffect :
    ((boot 0x40 0x00 0 0 0).halted = false ∧ (boot 0x40 0x00 0 0 0).fault = none) ∧
    ((boot 0x40 0x00 0 0 0).fetchByte = rowByte 0x40 Reg.a.index 0 ∧ (boot 0x40 0x00 0 0 0).reg .a = 0x00) ∧
    ((boot 0x41 0x01 0 0 0).fetchByte = rowByte 0x41 Reg.a.index 0 ∧ (boot 0x41 0x01 0 0 0).reg .a ≠ 0x00) ∧
    ((boot 0x42 0x80 0 0 0).fetchByte = rowByte 0x42 Reg.a.index 0 ∧ 0x80 ≤ ((boot 0x42 0x80 0 0 0).reg .a).toNat) ∧
    ((boot 0x43 0x7F 0 0 0).fetchByte = rowByte 0x43 Reg.a.index 0 ∧ ((boot 0x43 0x7F 0 0 0).reg .a).toNat < 0x80) := by
  decide

/-- StoreIsSeenByTheNextFetch: V17. -/
theorem witness_StoreIsSeenByTheNextFetch : ∃ s : State, s.halted = false ∧ s.fault = none ∧
    s.fetchByte = rowByte 0x30 Reg.b.index Reg.d.index ∧ s.datapage = s.codepage ∧ s.reg .d = s.pc + 1 :=
  ⟨{ boot 0x37 0 0x01 0 0x01 with datapage := 0x00 }, by decide⟩

/-- PageOfNopsNeverEnds: the reset state. -/
theorem witness_PageOfNopsNeverEnds : State.reset.halted = false ∧ State.reset.fault = none ∧
    ∀ a, State.reset.memRead State.reset.codepage a = 0x00 := ⟨rfl, rfl, fun _ => rfl⟩

/-- StepKeepsTheMachineInvariant: a core that has halted, its trace not empty, meets the invariant, and steps. -/
theorem witness_StepKeepsTheMachineInvariant : ∃ s t : State, s.halted = true ∧ s.Inv ∧ step s = .next t := by
  refine ⟨(boot 0x05 1 2 3 4).setHalted.writeBack.emitTrace (.halt 1), _, rfl, ?_, rfl⟩
  refine ⟨by decide, fun _ => rfl, nofun, nofun, fun _ => ⟨_, rfl, rfl⟩, fun r h => ?_, fun r h => ?_⟩
  · injection h with h
    exact h ▸ rfl
  · cases List.mem_singleton.1 h
    rfl

/-- MemoriesThatReadAlikeAreEqual: one memory in canonical form, reached by two writing orders. -/
theorem witness_MemoriesThatReadAlikeAreEqual :
    ((State.reset.poke 0x00 0x01 0x05).poke 0x00 0x00 0x06).mem.wf = true ∧
    ((State.reset.poke 0x00 0x00 0x06).poke 0x00 0x01 0x05).mem =
      ((State.reset.poke 0x00 0x01 0x05).poke 0x00 0x00 0x06).mem := by decide

/-- WriteMacroIsCheckedThenOrdered and ReadMacroIsCheckedThenOrdered: whole batches and batches one byte off. -/
theorem witness_batch_lengths :
    ([0x01, 0xFE] : List Byte).length % 3 ≠ 0 ∧ ([0x01, 0xFE, 0x02, 0x05] : List Byte).length % 3 ≠ 0 ∧
    ([0x01, 0xFE, 0x02] : List Byte).length % 3 = 0 ∧
    ([0x02] : List Byte).length % 2 ≠ 0 ∧ ([0x02, 0x10] : List Byte).length % 2 = 0 ∧
    (Session.mk State.reset true).inRun = true := by decide

/-- ProgramLoadFillsTheCodePage: a program of exactly one page, its last byte, and a cell of the next page. -/
theorem witness_ProgramLoadFillsTheCodePage :
    (List.replicate 256 (0x01 : Byte)).length ≤ 256 ∧ 255 < (List.replicate 256 (0x01 : Byte)).length ∧
    ¬ ((0x01 : Byte) = State.reset.codepage ∧ (0x00 : Byte).toNat < (List.replicate 256 (0x01 : Byte)).length) :=
  ⟨le_of_eq List.length_replicate, lt_of_lt_of_eq (by decide) List.length_replicate.symm,
    fun h => absurd h.1 (by decide)⟩

/-- LongProgramLoadFollowsTheParameter: byte 256 is the last one sent to its cell, with the page advancing and without,
and cell 01:00 gets none when it does not advance. -/
theorem witness_LongProgramLoadFollowsTheParameter :
    (0x01 : Byte) = State.reset.codepage + BitVec.ofNat 8 (256 / 256) ∧ (0x00 : Byte) = BitVec.ofNat 8 256 ∧
    256 < (List.replicate 257 (0x01 : Byte)).length ∧ (∀ j, 256 < j → j < 257 → False) ∧
    (0x01 : Byte) ≠ State.reset.codepage := by
  exact ⟨by decide, by decide, lt_of_lt_of_eq (by decide) List.length_replicate.symm, fun j h1 h2 => by omega, by decide⟩

/-- HostAndRunNeverInterleave: a session inside a run, one outside, and a start that is taken. -/
theorem witness_HostAndRunNeverInterleave :
    (Session.mk State.reset true).inRun = true ∧ (Session.mk State.reset false).inRun = false ∧
    Session.command ⟨State.reset, false⟩ .start = .ok (⟨State.reset, true⟩, []) := ⟨rfl, rfl, rfl⟩

end Sys2Proof.Tests
end

/-! ### NOP (40_nop_halt.md R90) -/

namespace Sys2Proof.Proofs

open Sys2Proof Sys2Proof.Machine

/-- The bytes 0x04, 0x08 and 0x0C share NOP's opcode and sub-opcode bits and fit no row of the opcode map
(30_encoding.md R68). -/
theorem decodeVariant_near_nop : ∀ rd : BitVec 2, rd ≠ 0 → decodeVariant (rowByte 0x00 rd 0) = none := by decide

/-- A byte of no variant is rejected under its own name (30_encoding.md R67). -/
theorem decode_of_decodeVariant_none (b : Byte) (h : decodeVariant b = none) : decode b = .illegalOpcode b := by
  simp [decode, h]

/-- NOP has no execute step: its cycle is the common end alone. -/
theorem exec_nop (s : State) : exec .nop s = retire .nop s := rfl

/-- The common end of a cycle moves `pc` and records the trace, and no other state. -/
theorem retire_frame (i : Instr) (s : State) : ∃ t, retire i s = .next t ∧ t.pc = s.pc + 1 ∧
    SameRegisters s t ∧ SameControl s t ∧ SameMemory s t := by
  obtain ⟨t, hret, hregs, hpc, hsp, hcp, hdp, hstp, hhalt, hfault, hmem, hin, hout, -⟩ := retire_fields i s
  have hcontrol : SameControl s t := ⟨hsp, ⟨hcp, hdp, hstp⟩, ⟨hhalt, hfault⟩, ⟨hin, hout⟩⟩
  exact ⟨t, hret, hpc, State.reg_congr s t hregs, hcontrol, State.memRead_congr s t hmem⟩

/-- Settles O1: NOP's cycle is `retire` alone, whose frame is `retire_frame`. -/
theorem nopOnlyAdvancesPc : Obligations.NopOnlyAdvancesPc := by
  intro s
  refine ⟨by decide, fun rd hrd => ?illegal, ?effect⟩
  case illegal => exact decode_of_decodeVariant_none _ (decodeVariant_near_nop rd hrd)
  case effect =>
    rw [exec_nop]
    exact retire_frame .nop s

end Sys2Proof.Proofs

/-! ### PAGE, LOAD, STORE (41_memory_ops.md R101 to R103) -/

namespace Sys2Proof.Proofs

open Sys2Proof Sys2Proof.Machine

/-! #### The fields of a row's byte -/

/-- A byte of a variant decodes to the instruction that the variant makes of the byte's fields. -/
theorem decode_of_decodeVariant_some (b : Byte) (v : Variant) (h : decodeVariant b = some v) :
    decode b = .legal (instrOf v (rdField b) (rsField b) (immField b)) := by
  simp [decode, h]

/-- The index of a register names it (10_state.md R10). -/
@[simp] theorem ofIndex_index (r : Reg) : Reg.ofIndex r.index = r := by
  cases r <;> rfl

/-- Bits 3-2 are `rd` when the row's match value and `low` stay within bits 7-4 and 1-0. -/
theorem rdField_rowByte (p : Nat) (rd low : BitVec 2) (h : p % 16 + low.toNat < 4) :
    rdField (rowByte p rd low) = rd := by
  have hrd := rd.isLt
  apply BitVec.eq_of_toNat_eq
  simp only [rdField, rowByte, BitVec.extractLsb'_toNat, BitVec.toNat_ofNat, Nat.shiftRight_eq_div_pow]
  omega

/-- Bits 1-0 are `low` when the row's match value leaves them free, as in format RR. -/
theorem rsField_rowByte (p : Nat) (rd low : BitVec 2) (h : p % 4 = 0) : rsField (rowByte p rd low) = low := by
  have hlow := low.isLt
  apply BitVec.eq_of_toNat_eq
  simp only [rsField, rowByte, BitVec.extractLsb'_toNat, BitVec.toNat_ofNat, Nat.shiftRight_eq_div_pow]
  omega

/-- A byte of format RR decodes to its variant's instruction on the two registers it names (30_encoding.md R62). -/
theorem decode_formatRR (p : Nat) (v : Variant) (rd rs : BitVec 2) (hp : p % 16 = 0)
    (hv : decodeVariant (rowByte p rd rs) = some v) :
    decode (rowByte p rd rs) = .legal (instrOf v rd rs (immField (rowByte p rd rs))) := by
  have hrd : rdField (rowByte p rd rs) = rd := rdField_rowByte p rd rs (by omega)
  have hrs : rsField (rowByte p rd rs) = rs := rsField_rowByte p rd rs (by omega)
  rw [decode_of_decodeVariant_some _ v hv, hrd, hrs]

theorem decodeVariant_page : ∀ rd : BitVec 2, decodeVariant (rowByte 0x02 rd 0) = some .page := by decide

theorem decodeVariant_load : ∀ rd rs : BitVec 2, decodeVariant (rowByte 0x20 rd rs) = some .load := by decide

theorem decodeVariant_store : ∀ rd rs : BitVec 2, decodeVariant (rowByte 0x30 rd rs) = some .store := by decide

theorem decode_page (rd : Reg) : decode (rowByte 0x02 rd.index 0) = .legal (.page rd) := by
  rw [decode_of_decodeVariant_some _ _ (decodeVariant_page rd.index), rdField_rowByte _ _ _ (by decide)]
  simp [instrOf]

theorem decode_load (rd rs : Reg) : decode (rowByte 0x20 rd.index rs.index) = .legal (.load rd rs) := by
  rw [decode_formatRR _ .load _ _ rfl (decodeVariant_load rd.index rs.index)]
  simp [instrOf]

theorem decode_store (rd rs : Reg) : decode (rowByte 0x30 rd.index rs.index) = .legal (.store rd rs) := by
  rw [decode_formatRR _ .store _ _ rfl (decodeVariant_store rd.index rs.index)]
  simp [instrOf]

/-! #### Cycles whose execute step is one write -/

/-- PAGE's cycle is a write of `datapage` and the common end. -/
theorem exec_page (rd : Reg) (s : State) : exec (.page rd) s = retire (.page rd) (s.setDatapage (s.reg rd)) := rfl

/-- LOAD's cycle is a write of `rd` and the common end; the cell is read from the state before the write. -/
theorem exec_load (rd rs : Reg) (s : State) :
    exec (.load rd rs) s = retire (.load rd rs) (s.setReg rd (s.memRead s.datapage (s.reg rs))) := rfl

/-- STORE's cycle is a write of one cell and the common end. -/
theorem exec_store (rd rs : Reg) (s : State) :
    exec (.store rd rs) s = retire (.store rd rs) (s.memWrite s.datapage (s.reg rs) (s.reg rd)) := rfl

/-- A cycle that writes `datapage` alone. -/
theorem retire_setDatapage (i : Instr) (s : State) (v : Byte) : ∃ t, retire i (s.setDatapage v) = .next t ∧
    t.datapage = v ∧ t.pc = s.pc + 1 ∧ t.codepage = s.codepage ∧ t.stackpage = s.stackpage ∧
    SameRegisters s t ∧ t.sp = s.sp ∧ SameRunFlags s t ∧ SameConsole s t ∧ SameMemory s t := by
  obtain ⟨t, hret, hpc, hregs, ⟨hsp, ⟨hcp, hdp, hstp⟩, hrun, hcon⟩, hmem⟩ := retire_frame i (s.setDatapage v)
  exact ⟨t, hret, hdp, hpc, hcp, hstp, hregs, hsp, hrun, hcon, hmem⟩

/-- A cycle that writes one register alone. -/
theorem retire_setReg (i : Instr) (s : State) (rd : Reg) (v : Byte) : ∃ t, retire i (s.setReg rd v) = .next t ∧
    t.reg rd = v ∧ SameRegistersBut rd s t ∧ t.pc = s.pc + 1 ∧ SameControl s t ∧ SameMemory s t := by
  obtain ⟨t, hret, hpc, hregs, hcontrol, hmem⟩ := retire_frame i (s.setReg rd v)
  have hwritten : t.reg rd = v := (hregs rd).trans (State.reg_setReg_same s rd v)
  have hothers : SameRegistersBut rd s t := fun r hr => by rw [hregs r, State.reg_setReg, if_neg hr]
  exact ⟨t, hret, hwritten, hothers, hpc, hcontrol, hmem⟩

/-- A cycle that writes one cell alone. -/
theorem retire_memWrite (i : Instr) (s : State) (p a v : Byte) : ∃ t, retire i (s.memWrite p a v) = .next t ∧
    t.memRead p a = v ∧ SameMemoryBut p a s t ∧ SameRegisters s t ∧ t.pc = s.pc + 1 ∧ SameControl s t := by
  obtain ⟨t, hret, hpc, hregs, hcontrol, hmem⟩ := retire_frame i (s.memWrite p a v)
  have hwritten : t.memRead p a = v := (hmem p a).trans (State.memRead_memWrite_same s p a v)
  have hothers : SameMemoryBut p a s t := fun q b hqb => by rw [hmem q b, State.memRead_memWrite, if_neg hqb]
  exact ⟨t, hret, hwritten, hothers, hregs, hpc, hcontrol⟩

/-! #### The statements -/

/-- Settles O3: PAGE's cycle is a write of `datapage` alone. -/
theorem pageSetsDatapage : Obligations.PageSetsDatapage := by
  intro rd s
  refine ⟨decode_page rd, ?effect⟩
  case effect =>
    rw [exec_page]
    exact retire_setDatapage (.page rd) s (s.reg rd)

/-- Settles O4: LOAD's cycle is a write of `rd` alone, its value computed before the write, so `rd = rs` is no case
of its own. -/
theorem loadReadsTheDataPage : Obligations.LoadReadsTheDataPage := by
  intro rd rs s
  refine ⟨decode_load rd rs, ?effect⟩
  case effect =>
    rw [exec_load]
    exact retire_setReg (.load rd rs) s rd (s.memRead s.datapage (s.reg rs))

/-- Settles O5: STORE's cycle is a write of the cell `datapage : x[rs]` alone. -/
theorem storeWritesTheDataPage : Obligations.StoreWritesTheDataPage := by
  intro rd rs s
  refine ⟨decode_store rd rs, ?effect⟩
  case effect =>
    rw [exec_store]
    exact retire_memWrite (.store rd rs) s s.datapage (s.reg rs) (s.reg rd)

end Sys2Proof.Proofs

/-! ### SUB, NAND, ADD, INC, DEC, SLI (42_alu.md R110 to R116) -/

namespace Sys2Proof.Proofs

open Sys2Proof Sys2Proof.Machine

/-! #### The results as numbers and as bits (42_alu.md R110) -/

theorem addResult_toNat (a b : Byte) : (addResult a b).toNat = (a.toNat + b.toNat) % 256 := BitVec.toNat_add a b

/-- The difference modulo 256, with 256 added first so that the subtraction of naturals does not stop at 0. -/
theorem subResult_toNat (a b : Byte) : (subResult a b).toNat = (a.toNat + 256 - b.toNat) % 256 := by
  have hb := b.isLt
  rw [subResult, BitVec.toNat_sub]
  omega

theorem nandResult_getLsbD (a b : Byte) (k : Nat) (hk : k < 8) :
    (nandResult a b).getLsbD k = !(a.getLsbD k && b.getLsbD k) := by
  simp [nandResult, hk]

/-- The nibble moved up and the immediate share no bit, so their OR is their sum. -/
theorem sliResult_toNat (a : Byte) (imm : BitVec 4) : (sliResult a imm).toNat = (a.toNat * 16) % 256 + imm.toNat := by
  have himm : (immOperand imm).toNat = imm.toNat := BitVec.toNat_setWidth_of_le (by decide)
  have hshift : (a <<< 4).toNat = 2 ^ 4 * (a.toNat % 16) := by
    rw [BitVec.toNat_shiftLeft, Nat.shiftLeft_eq]
    omega
  calc (sliResult a imm).toNat
    _ = 2 ^ 4 * (a.toNat % 16) ||| imm.toNat := by rw [sliResult, BitVec.toNat_or, hshift, himm]
    _ = 2 ^ 4 * (a.toNat % 16) + imm.toNat := (Nat.two_pow_add_eq_or_of_lt imm.isLt _).symm
    _ = (a.toNat * 16) % 256 + imm.toNat := by omega

/-! #### The bytes -/

/-- A byte of format RS decodes to its variant's instruction on the one register it names, its low bits being the
sub-opcode (30_encoding.md R62, R63). -/
theorem decode_formatRS (p : Nat) (v : Variant) (rd low : BitVec 2) (hp : p % 16 + low.toNat < 4)
    (hv : decodeVariant (rowByte p rd low) = some v) :
    decode (rowByte p rd low) = .legal (instrOf v rd (rsField (rowByte p rd low)) (immField (rowByte p rd low))) := by
  rw [decode_of_decodeVariant_some _ v hv, rdField_rowByte p rd low hp]

theorem decodeVariant_sub : ∀ rd rs : BitVec 2, decodeVariant (rowByte 0x10 rd rs) = some .sub := by decide

theorem decodeVariant_nand : ∀ rd rs : BitVec 2, decodeVariant (rowByte 0x60 rd rs) = some .nand := by decide

theorem decodeVariant_add : ∀ rd rs : BitVec 2, decodeVariant (rowByte 0x70 rd rs) = some .add := by decide

theorem decodeVariant_inc : ∀ rd : BitVec 2, decodeVariant (rowByte 0x80 rd 0) = some .inc := by decide

theorem decodeVariant_dec : ∀ rd : BitVec 2, decodeVariant (rowByte 0x81 rd 0) = some .dec := by decide

theorem decode_sub (rd rs : Reg) : decode (rowByte 0x10 rd.index rs.index) = .legal (.sub rd rs) := by
  rw [decode_formatRR _ .sub _ _ rfl (decodeVariant_sub rd.index rs.index)]
  simp [instrOf]

theorem decode_nand (rd rs : Reg) : decode (rowByte 0x60 rd.index rs.index) = .legal (.nand rd rs) := by
  rw [decode_formatRR _ .nand _ _ rfl (decodeVariant_nand rd.index rs.index)]
  simp [instrOf]

theorem decode_add (rd rs : Reg) : decode (rowByte 0x70 rd.index rs.index) = .legal (.add rd rs) := by
  rw [decode_formatRR _ .add _ _ rfl (decodeVariant_add rd.index rs.index)]
  simp [instrOf]

theorem decode_inc (rd : Reg) : decode (rowByte 0x80 rd.index 0) = .legal (.inc rd) := by
  rw [decode_formatRS _ .inc _ _ (by decide) (decodeVariant_inc rd.index)]
  simp [instrOf]

theorem decode_dec (rd : Reg) : decode (rowByte 0x81 rd.index 0) = .legal (.dec rd) := by
  rw [decode_formatRS _ .dec _ _ (by decide) (decodeVariant_dec rd.index)]
  simp [instrOf]

/-- The byte of SLI: the immediate in bits 5-4 and 1-0, `rd` between them (30_encoding.md R64). -/
def sliByte (rd : BitVec 2) (imm : BitVec 4) : Byte :=
  BitVec.ofNat 8 (0xC0 + 16 * (imm.toNat / 4) + 4 * rd.toNat + imm.toNat % 4)

theorem decodeVariant_sliByte : ∀ (rd : BitVec 2) (imm : BitVec 4), decodeVariant (sliByte rd imm) = some .sli := by
  decide

theorem rdField_sliByte : ∀ (rd : BitVec 2) (imm : BitVec 4), rdField (sliByte rd imm) = rd := by decide

/-- The Decoder puts the two parts of the immediate together again. -/
theorem immField_sliByte : ∀ (rd : BitVec 2) (imm : BitVec 4), immField (sliByte rd imm) = imm := by decide

theorem decode_sliByte (rd : Reg) (imm : BitVec 4) : decode (sliByte rd.index imm) = .legal (.sli rd imm) := by
  rw [decode_of_decodeVariant_some _ _ (decodeVariant_sliByte rd.index imm), rdField_sliByte, immField_sliByte]
  simp [instrOf]

/-! #### Cycles whose execute step writes one result -/

theorem exec_sub (rd rs : Reg) (s : State) :
    exec (.sub rd rs) s = retire (.sub rd rs) (s.setReg rd (subResult (s.reg rd) (s.reg rs))) := rfl

theorem exec_nand (rd rs : Reg) (s : State) :
    exec (.nand rd rs) s = retire (.nand rd rs) (s.setReg rd (nandResult (s.reg rd) (s.reg rs))) := rfl

theorem exec_add (rd rs : Reg) (s : State) :
    exec (.add rd rs) s = retire (.add rd rs) (s.setReg rd (addResult (s.reg rd) (s.reg rs))) := rfl

theorem exec_inc (rd : Reg) (s : State) :
    exec (.inc rd) s = retire (.inc rd) (s.setReg rd (addResult (s.reg rd) 1)) := rfl

theorem exec_dec (rd : Reg) (s : State) :
    exec (.dec rd) s = retire (.dec rd) (s.setReg rd (subResult (s.reg rd) 1)) := rfl

theorem exec_sli (rd : Reg) (imm : BitVec 4) (s : State) :
    exec (.sli rd imm) s = retire (.sli rd imm) (s.setReg rd (sliResult (s.reg rd) imm)) := rfl

/-- An instruction whose cycle writes the value `v` to `rd` and nothing else: whatever is known of `v` is known of `rd`
afterwards. -/
theorem exec_writes_result {i : Instr} {s : State} {rd : Reg} {v : Byte} (P : Byte → Prop)
    (hexec : exec i s = retire i (s.setReg rd v)) (hv : P v) :
    ∃ t, exec i s = .next t ∧ P (t.reg rd) ∧
      SameRegistersBut rd s t ∧ t.pc = s.pc + 1 ∧ SameControl s t ∧ SameMemory s t := by
  obtain ⟨t, hret, hreg, hframe⟩ := retire_setReg i s rd v
  exact ⟨t, hexec.trans hret, hreg ▸ hv, hframe⟩

/-! #### The statements -/

/-- Settles O6: SUB's cycle writes `subResult` alone, both operands read before the write. -/
theorem subSubtractsModulo256 : Obligations.SubSubtractsModulo256 := by
  intro rd rs s
  refine ⟨decode_sub rd rs, ?effect⟩
  case effect =>
    exact exec_writes_result (fun v => v.toNat = ((s.reg rd).toNat + 256 - (s.reg rs).toNat) % 256)
      (exec_sub rd rs s) (subResult_toNat (s.reg rd) (s.reg rs))

/-- Settles O7: NAND's cycle writes `nandResult` alone, whose bits are `nandResult_getLsbD`. -/
theorem nandComplementsTheAnd : Obligations.NandComplementsTheAnd := by
  intro rd rs s
  refine ⟨decode_nand rd rs, ?effect⟩
  case effect =>
    exact exec_writes_result
      (fun v => ∀ k, k < 8 → v.getLsbD k = !((s.reg rd).getLsbD k && (s.reg rs).getLsbD k))
      (exec_nand rd rs s) (nandResult_getLsbD (s.reg rd) (s.reg rs))

/-- Settles O8: ADD's cycle writes `addResult` alone, both operands read before the write. -/
theorem addAddsModulo256 : Obligations.AddAddsModulo256 := by
  intro rd rs s
  refine ⟨decode_add rd rs, ?effect⟩
  case effect =>
    exact exec_writes_result (fun v => v.toNat = ((s.reg rd).toNat + (s.reg rs).toNat) % 256)
      (exec_add rd rs s) (addResult_toNat (s.reg rd) (s.reg rs))

/-- Settles O9: INC is ADD's result with the constant 1. -/
theorem incAddsOneModulo256 : Obligations.IncAddsOneModulo256 := by
  intro rd s
  refine ⟨decode_inc rd, ?effect⟩
  case effect =>
    exact exec_writes_result (fun v => v.toNat = ((s.reg rd).toNat + 1) % 256)
      (exec_inc rd s) (addResult_toNat (s.reg rd) 1)

/-- Settles O10: DEC is SUB's result with the constant 1, and 256 - 1 is the 255 added. -/
theorem decSubtractsOneModulo256 : Obligations.DecSubtractsOneModulo256 := by
  intro rd s
  refine ⟨decode_dec rd, ?effect⟩
  case effect =>
    exact exec_writes_result (fun v => v.toNat = ((s.reg rd).toNat + 255) % 256)
      (exec_dec rd s) (subResult_toNat (s.reg rd) 1)

/-- Settles O11: SLI's cycle writes `sliResult` alone, whose OR is a sum by `sliResult_toNat`. -/
theorem sliShiftsInTheImmediate : Obligations.SliShiftsInTheImmediate := by
  intro rd imm s
  refine ⟨decode_sliByte rd imm, ?effect⟩
  case effect =>
    exact exec_writes_result (fun v => v.toNat = ((s.reg rd).toNat * 16) % 256 + imm.toNat)
      (exec_sli rd imm s) (sliResult_toNat (s.reg rd) imm)

end Sys2Proof.Proofs

/-! ### SKIPZ, SKIPNZ, SKIPL, SKIPGE (43_skip.md R130 to R136) -/

namespace Sys2Proof.Proofs

open Sys2Proof Sys2Proof.Machine

/-! #### The conditions (43_skip.md R136) -/

theorem isZero_iff (v : Byte) : isZero v = true ↔ v = 0x00 := beq_iff_eq

theorem not_isZero_iff (v : Byte) : (!isZero v) = true ↔ v ≠ 0x00 := by
  rw [Bool.not_eq_true', ← Bool.not_eq_true, isZero_iff]

/-- Bit 7 is the sign bit, so it is 1 in the upper half of the values. -/
theorem isNegative_iff (v : Byte) : isNegative v = true ↔ 0x80 ≤ v.toNat := by
  have hmsb : isNegative v = v.msb := (BitVec.msb_eq_getLsbD_last v).symm
  rw [hmsb, BitVec.msb_eq_true_iff_two_mul_ge]
  omega

theorem not_isNegative_iff (v : Byte) : (!isNegative v) = true ↔ v.toNat < 0x80 := by
  rw [Bool.not_eq_true', ← Bool.not_eq_true, isNegative_iff, Nat.not_le]

/-! #### The bytes -/

theorem decodeVariant_skipz : ∀ rd : BitVec 2, decodeVariant (rowByte 0x40 rd 0) = some .skipz := by decide

theorem decodeVariant_skipnz : ∀ rd : BitVec 2, decodeVariant (rowByte 0x41 rd 0) = some .skipnz := by decide

theorem decodeVariant_skipl : ∀ rd : BitVec 2, decodeVariant (rowByte 0x42 rd 0) = some .skipl := by decide

theorem decodeVariant_skipge : ∀ rd : BitVec 2, decodeVariant (rowByte 0x43 rd 0) = some .skipge := by decide

theorem decode_skipz (rd : Reg) : decode (rowByte 0x40 rd.index 0) = .legal (.skipz rd) := by
  rw [decode_formatRS _ .skipz _ _ (by decide) (decodeVariant_skipz rd.index)]
  simp [instrOf]

theorem decode_skipnz (rd : Reg) : decode (rowByte 0x41 rd.index 0) = .legal (.skipnz rd) := by
  rw [decode_formatRS _ .skipnz _ _ (by decide) (decodeVariant_skipnz rd.index)]
  simp [instrOf]

theorem decode_skipl (rd : Reg) : decode (rowByte 0x42 rd.index 0) = .legal (.skipl rd) := by
  rw [decode_formatRS _ .skipl _ _ (by decide) (decodeVariant_skipl rd.index)]
  simp [instrOf]

theorem decode_skipge (rd : Reg) : decode (rowByte 0x43 rd.index 0) = .legal (.skipge rd) := by
  rw [decode_formatRS _ .skipge _ _ (by decide) (decodeVariant_skipge rd.index)]
  simp [instrOf]

/-! #### Cycles whose execute step is a skip -/

theorem exec_skipz (rd : Reg) (s : State) :
    exec (.skipz rd) s = retire (.skipz rd) (s.skipIf (isZero (s.reg rd))) := rfl

theorem exec_skipnz (rd : Reg) (s : State) :
    exec (.skipnz rd) s = retire (.skipnz rd) (s.skipIf (!isZero (s.reg rd))) := rfl

theorem exec_skipl (rd : Reg) (s : State) :
    exec (.skipl rd) s = retire (.skipl rd) (s.skipIf (isNegative (s.reg rd))) := rfl

theorem exec_skipge (rd : Reg) (s : State) :
    exec (.skipge rd) s = retire (.skipge rd) (s.skipIf (!isNegative (s.reg rd))) := rfl

/-- A cycle that skips or not, and does nothing else: a taken skip and the write-back add 1 to `pc` each
(43_skip.md R130). -/
theorem retire_skipIf (i : Instr) (s : State) (taken : Bool) : ∃ t, retire i (s.skipIf taken) = .next t ∧
    t.pc = (if taken = true then s.pc + 2 else s.pc + 1) ∧
    SameRegisters s t ∧ SameControl s t ∧ SameMemory s t := by
  rw [State.skipIf_eq]
  obtain ⟨t, hret, hpc, hframe⟩ := retire_frame i { s with pc := if taken then s.pc + 1 else s.pc }
  refine ⟨t, hret, hpc.trans ?pc, hframe⟩
  case pc =>
    cases taken with
    | true => exact BitVec.add_assoc s.pc 1 1
    | false => rfl

/-- An instruction whose cycle skips or not and does nothing else: the condition it tests may be put as any proposition
it is equivalent to. -/
theorem exec_skips_iff {i : Instr} {s : State} {taken : Bool} {P : Prop} [Decidable P]
    (hexec : exec i s = retire i (s.skipIf taken)) (htaken : taken = true ↔ P) :
    ∃ t, exec i s = .next t ∧ t.pc = (if P then s.pc + 2 else s.pc + 1) ∧
      SameRegisters s t ∧ SameControl s t ∧ SameMemory s t := by
  obtain ⟨t, hret, hpc, hframe⟩ := retire_skipIf i s taken
  exact ⟨t, hexec.trans hret, hpc.trans (if_congr htaken rfl rfl), hframe⟩

/-- Of two instructions that skip on opposite conditions, both complete and exactly one skips. -/
theorem exec_skips_complementary {i j : Instr} {s : State} {taken : Bool}
    (hi : exec i s = retire i (s.skipIf taken)) (hj : exec j s = retire j (s.skipIf (!taken))) :
    ∃ t u, exec i s = .next t ∧ exec j s = .next u ∧
      ((t.pc = s.pc + 2 ∧ u.pc = s.pc + 1 ∧ taken = true) ∨
        (t.pc = s.pc + 1 ∧ u.pc = s.pc + 2 ∧ taken = false)) := by
  obtain ⟨t, ht, htpc, -⟩ := retire_skipIf i s taken
  obtain ⟨u, hu, hupc, -⟩ := retire_skipIf j s (!taken)
  refine ⟨t, u, hi.trans ht, hj.trans hu, ?pcs⟩
  case pcs =>
    cases taken with
    | true => exact .inl ⟨htpc, hupc, rfl⟩
    | false => exact .inr ⟨htpc, hupc, rfl⟩

/-! #### The statements -/

/-- Settles O25: each pair skips on one condition and its negation. -/
theorem skipsFormComplementaryPairs : Obligations.SkipsFormComplementaryPairs := by
  intro rd s
  obtain ⟨tz, tn, hz, hn, hzero⟩ := exec_skips_complementary (exec_skipz rd s) (exec_skipnz rd s)
  obtain ⟨tl, tg, hl, hg, hsign⟩ := exec_skips_complementary (exec_skipl rd s) (exec_skipge rd s)
  rw [← Bool.not_eq_true, isZero_iff] at hzero
  exact ⟨tz, tn, tl, tg, hz, hn, hl, hg, hzero, hsign⟩

/-- Settles O12: SKIPZ's cycle skips on `isZero` and does nothing else. -/
theorem skipzSkipsOnZero : Obligations.SkipzSkipsOnZero := by
  intro rd s
  exact ⟨decode_skipz rd, exec_skips_iff (exec_skipz rd s) (isZero_iff (s.reg rd))⟩

/-- Settles O13: SKIPNZ's cycle skips on the negation of `isZero` and does nothing else. -/
theorem skipnzSkipsOnNonzero : Obligations.SkipnzSkipsOnNonzero := by
  intro rd s
  exact ⟨decode_skipnz rd, exec_skips_iff (exec_skipnz rd s) (not_isZero_iff (s.reg rd))⟩

/-- Settles O14: SKIPL's cycle skips on `isNegative`, bit 7 by `isNegative_iff`, and does nothing else. -/
theorem skiplSkipsOnBitSevenSet : Obligations.SkiplSkipsOnBitSevenSet := by
  intro rd s
  exact ⟨decode_skipl rd, exec_skips_iff (exec_skipl rd s) (isNegative_iff (s.reg rd))⟩

/-- Settles O15: SKIPGE's cycle skips on the negation of `isNegative` and does nothing else. -/
theorem skipgeSkipsOnBitSevenClear : Obligations.SkipgeSkipsOnBitSevenClear := by
  intro rd s
  exact ⟨decode_skipge rd, exec_skips_iff (exec_skipge rd s) (not_isNegative_iff (s.reg rd))⟩

end Sys2Proof.Proofs

/-! ### PUSH, POP, STACKPAGE (46_stack.md R161 to R164) -/

namespace Sys2Proof.Proofs

open Sys2Proof Sys2Proof.Machine

/-! #### The bytes -/

theorem decodeVariant_push : ∀ rd : BitVec 2, decodeVariant (rowByte 0xA0 rd 0) = some .push := by decide

theorem decodeVariant_pop : ∀ rd : BitVec 2, decodeVariant (rowByte 0xA1 rd 0) = some .pop := by decide

theorem decodeVariant_stackpage : ∀ rd : BitVec 2, decodeVariant (rowByte 0xA2 rd 0) = some .stackpage := by decide

theorem decode_push (rd : Reg) : decode (rowByte 0xA0 rd.index 0) = .legal (.push rd) := by
  rw [decode_formatRS _ .push _ _ (by decide) (decodeVariant_push rd.index)]
  simp [instrOf]

theorem decode_pop (rd : Reg) : decode (rowByte 0xA1 rd.index 0) = .legal (.pop rd) := by
  rw [decode_formatRS _ .pop _ _ (by decide) (decodeVariant_pop rd.index)]
  simp [instrOf]

theorem decode_stackpage (rd : Reg) : decode (rowByte 0xA2 rd.index 0) = .legal (.stackpage rd) := by
  rw [decode_formatRS _ .stackpage _ _ (by decide) (decodeVariant_stackpage rd.index)]
  simp [instrOf]

/-! #### Cycles whose execute step moves the stack pointer or its page -/

/-- PUSH's cycle moves `sp` down, writes the cell at the new top, and ends as every cycle does. -/
theorem exec_push (rd : Reg) (s : State) : exec (.push rd) s =
    retire (.push rd) ((s.setSp (s.sp - 1)).memWrite s.stackpage (s.sp - 1) (s.reg rd)) := rfl

/-- POP's cycle writes `rd` from the cell at the old top, moves `sp` up, and ends as every cycle does. The two writes
touch different fields and the value is read from `s`, so `sp` may be moved first. -/
theorem exec_pop (rd : Reg) (s : State) : exec (.pop rd) s =
    retire (.pop rd) ((s.setSp (s.sp + 1)).setReg rd (s.memRead s.stackpage s.sp)) := rfl

/-- STACKPAGE's cycle is a write of `stackpage` and the common end. -/
theorem exec_stackpage (rd : Reg) (s : State) :
    exec (.stackpage rd) s = retire (.stackpage rd) (s.setStackpage (s.reg rd)) := rfl

/-- A cycle that writes `stackpage` alone. -/
theorem retire_setStackpage (i : Instr) (s : State) (v : Byte) : ∃ t, retire i (s.setStackpage v) = .next t ∧
    t.stackpage = v ∧ t.sp = s.sp ∧ t.pc = s.pc + 1 ∧ t.codepage = s.codepage ∧ t.datapage = s.datapage ∧
    SameRegisters s t ∧ SameRunFlags s t ∧ SameConsole s t ∧ SameMemory s t := by
  obtain ⟨t, hret, hpc, hregs, ⟨hsp, ⟨hcp, hdp, hstp⟩, hrun, hcon⟩, hmem⟩ := retire_frame i (s.setStackpage v)
  exact ⟨t, hret, hstp, hsp, hpc, hcp, hdp, hregs, hrun, hcon, hmem⟩

/-! #### The statements -/

/-- Settles O22: PUSH's cycle writes one cell of the state whose `sp` is already moved down, and the cell is the one
below the old top. -/
theorem pushStoresBelowTheTop : Obligations.PushStoresBelowTheTop := by
  intro rd s
  refine ⟨decode_push rd, ?effect⟩
  case effect =>
    obtain ⟨t, hret, htop, hothers, hregs, hpc, hsp, hpages, hrun, hcon⟩ :=
      retire_memWrite (.push rd) (s.setSp (s.sp - 1)) s.stackpage (s.sp - 1) (s.reg rd)
    exact ⟨t, (exec_push rd s).trans hret, hsp, htop, hothers, hregs, hpc, hpages, hrun, hcon⟩

/-- Settles O23: POP's cycle writes one register of the state whose `sp` is already moved up, the value being read at
the old top. -/
theorem popReadsTheTop : Obligations.PopReadsTheTop := by
  intro rd s
  refine ⟨decode_pop rd, ?effect⟩
  case effect =>
    obtain ⟨t, hret, hreg, hothers, hpc, ⟨hsp, hpages, hrun, hcon⟩, hmem⟩ :=
      retire_setReg (.pop rd) (s.setSp (s.sp + 1)) rd (s.memRead s.stackpage s.sp)
    exact ⟨t, (exec_pop rd s).trans hret, hreg, hsp, hothers, hpc, hpages, hrun, hcon, hmem⟩

/-- Settles O24: STACKPAGE's cycle is a write of `stackpage` alone. -/
theorem stackpageSetsTheStackPage : Obligations.StackpageSetsTheStackPage := by
  intro rd s
  refine ⟨decode_stackpage rd, ?effect⟩
  case effect =>
    rw [exec_stackpage]
    exact retire_setStackpage (.stackpage rd) s (s.reg rd)

/-- Settles O26: what PUSH leaves (`pushStoresBelowTheTop`) is what POP reads (`popReadsTheTop`). The later state `u`
keeps the stack page, `sp` and that cell, and the move of `sp` up undoes the move down modulo 256. -/
theorem pushThenPopRestores : Obligations.PushThenPopRestores := by
  intro rd rd' s
  obtain ⟨-, t, hpush, htsp, htop, -, -, -, ⟨-, -, htpage⟩, -⟩ := pushStoresBelowTheTop rd s
  refine ⟨t, hpush, fun u hupage husp hucell => ?_⟩
  obtain ⟨-, w, hpop, hwreg, hwsp, -⟩ := popReadsTheTop rd' u
  have hvalue : w.reg rd' = s.reg rd := calc
    w.reg rd' = u.memRead u.stackpage u.sp := hwreg
    _ = t.memRead t.stackpage t.sp := by rw [hupage, husp, hucell]
    _ = s.reg rd := by rw [htpage, htsp, htop]
  have hsp : w.sp = s.sp := calc
    w.sp = u.sp + 1 := hwsp
    _ = s.sp - 1 + 1 := by rw [husp, htsp]
    _ = s.sp := BitVec.sub_add_cancel s.sp 1
  exact ⟨w, hpop, hvalue, hsp⟩

end Sys2Proof.Proofs

/-! ### Encoding: the Decoder and the encoder are inverse (30_encoding.md R60 to R68) -/

namespace Sys2Proof.Proofs

open Sys2Proof Sys2Proof.Machine

/-! #### The opcode map and the Decoder -/

/-- The match/mask table and the field layout name the same variant of every byte. -/
theorem fits_iff_decodeVariant (v : Variant) :
    ∀ b : Byte, (opcodeRow v).fits b = true ↔ decodeVariant b = some v := by
  cases v <;> decide

/-- A byte is an instruction exactly when the Decoder has a variant for it. -/
theorem isInstructionByte_iff (b : Byte) : isInstructionByte b = true ↔ ∃ v, decodeVariant b = some v := by
  have hall : ∀ v, v ∈ allVariants := fun v => by cases v <;> decide
  simp [isInstructionByte, List.any_eq_true, hall, fits_iff_decodeVariant]

/-- The rejection is the Decoder's answer exactly for the bytes that are no instruction. -/
theorem isInstructionByte_eq_false_iff (b : Byte) : isInstructionByte b = false ↔ decode b = .illegalOpcode b := by
  rw [← Bool.not_eq_true, isInstructionByte_iff]
  cases hv : decodeVariant b with
  | none => simp [decode_of_decodeVariant_none b hv]
  | some v => simp [decode_of_decodeVariant_some b v hv]

/-- A byte that decodes to an instruction has a variant, and the instruction is what that variant makes of the byte's
fields. -/
theorem decode_legal_iff (b : Byte) (i : Instr) : decode b = .legal i ↔
    ∃ v, decodeVariant b = some v ∧ instrOf v (rdField b) (rsField b) (immField b) = i := by
  cases hv : decodeVariant b with
  | none => simp [decode_of_decodeVariant_none b hv]
  | some v => simp [decode_of_decodeVariant_some b v hv]

/-! #### Decoding an encoded instruction -/

/-- The family `Laws.EncodingRow` as one fact about all instructions. -/
theorem encode_fits_iff (i : Instr) : Laws.EncodingRow.Statement i := by
  cases i with
  | nop => exact Laws.EncodingRow.nop
  | halt ignored => exact Laws.EncodingRow.halt ignored
  | page rd => exact Laws.EncodingRow.page rd
  | sub rd rs => exact Laws.EncodingRow.sub rd rs
  | load rd rs => exact Laws.EncodingRow.load rd rs
  | store rd rs => exact Laws.EncodingRow.store rd rs
  | skipz rd => exact Laws.EncodingRow.skipz rd
  | skipnz rd => exact Laws.EncodingRow.skipnz rd
  | skipl rd => exact Laws.EncodingRow.skipl rd
  | skipge rd => exact Laws.EncodingRow.skipge rd
  | jalr rd rs => exact Laws.EncodingRow.jalr rd rs
  | nand rd rs => exact Laws.EncodingRow.nand rd rs
  | add rd rs => exact Laws.EncodingRow.add rd rs
  | inc rd => exact Laws.EncodingRow.inc rd
  | dec rd => exact Laws.EncodingRow.dec rd
  | out rd => exact Laws.EncodingRow.out rd
  | inp rd => exact Laws.EncodingRow.inp rd
  | jmpfar rd rs => exact Laws.EncodingRow.jmpfar rd rs
  | push rd => exact Laws.EncodingRow.push rd
  | pop rd => exact Laws.EncodingRow.pop rd
  | stackpage rd => exact Laws.EncodingRow.stackpage rd
  | sli rd imm => exact Laws.EncodingRow.sli rd imm

theorem decodeVariant_encode (i : Instr) : decodeVariant (encode i) = some i.variant :=
  (fits_iff_decodeVariant i.variant (encode i)).1 ((encode_fits_iff i i.variant).2 rfl)

@[simp] theorem rdField_packFields : ∀ (opcode : BitVec 4) (hi lo : BitVec 2),
    rdField (packFields opcode hi lo) = hi := by decide

@[simp] theorem rsField_packFields : ∀ (opcode : BitVec 4) (hi lo : BitVec 2),
    rsField (packFields opcode hi lo) = lo := by decide

@[simp] theorem rdField_packImmediate : ∀ (rd : BitVec 2) (imm : BitVec 4),
    rdField (packImmediate rd imm) = rd := by decide

@[simp] theorem immField_packImmediate : ∀ (rd : BitVec 2) (imm : BitVec 4),
    immField (packImmediate rd imm) = imm := by decide

/-- The fields of an instruction's byte are the operands it was packed from. -/
theorem instrOf_fields_encode (i : Instr) :
    instrOf i.variant (rdField (encode i)) (rsField (encode i)) (immField (encode i)) = i := by
  cases i <;> simp [encode, Instr.variant, instrOf]

theorem decode_encode (i : Instr) : decode (encode i) = .legal i :=
  (decode_legal_iff _ _).2 ⟨i.variant, decodeVariant_encode i, instrOf_fields_encode i⟩

/-- Settles O54: the byte has its instruction's variant, and its fields are the operands. -/
theorem decodeOfEncodeIsTheInstruction : Obligations.DecodeOfEncodeIsTheInstruction := decode_encode

/-! #### Encoding a decoded byte -/

/-- The encoder puts the fields of a variant's byte back where they stood: every bit that the variant's mask leaves out
belongs to an operand of the instruction. -/
theorem encode_instrOf (v : Variant) : ∀ b : Byte, decodeVariant b = some v →
    encode (instrOf v (rdField b) (rsField b) (immField b)) = b := by
  cases v <;> decide

theorem decode_eq_legal_iff (b : Byte) (i : Instr) : decode b = .legal i ↔ encode i = b := by
  constructor
  · intro h
    obtain ⟨v, hv, rfl⟩ := (decode_legal_iff b i).1 h
    exact encode_instrOf v b hv
  · rintro rfl
    exact decode_encode i

/-- Settles O55: `decode` and `encode` are inverse on the instruction bytes. -/
theorem encodeOfDecodeIsTheByte : Obligations.EncodeOfDecodeIsTheByte := decode_eq_legal_iff

/-- No two bytes decode to one instruction (log entry 2). -/
theorem decode_legal_inj {b c : Byte} {i : Instr} (hb : decode b = .legal i) (hc : decode c = .legal i) : b = c :=
  ((decode_eq_legal_iff b i).1 hb).symm.trans ((decode_eq_legal_iff c i).1 hc)

/-- A byte that decodes to an instruction is no illegal byte. -/
theorem isInstructionByte_of_decode {b : Byte} {i : Instr} (h : decode b = .legal i) : isInstructionByte b = true := by
  obtain ⟨v, hv, -⟩ := (decode_legal_iff b i).1 h
  exact (isInstructionByte_iff b).2 ⟨v, hv⟩

/-! #### The statements of tier 1 -/

/-- The opcode map covers 229 bytes: they are counted by quarters of the 256, which keeps `decide` within its recursion
limit. -/
theorem count_instructionBytes :
    ((List.range 256).filter fun n => isInstructionByte (BitVec.ofNat 8 n)).length = 229 := by
  have hquarters : List.range 256 = List.range (64 + 64 + (64 + 64)) := rfl
  simp only [hquarters, List.range_add, List.map_append, List.filter_append, List.length_append]
  decide

/-- Settles O52: a row is the Decoder's variant (`fits_iff_decodeVariant`), of which a byte has at most one. -/
theorem opcodeRowsAreDisjointAndCover229 : Obligations.OpcodeRowsAreDisjointAndCover229 := by
  refine ⟨fits_iff_decodeVariant, fun v w b hv hw => ?disjoint, count_instructionBytes, isInstructionByte_eq_false_iff⟩
  case disjoint =>
    rw [fits_iff_decodeVariant] at hv hw
    exact Option.some.inj (hv.symm.trans hw)

/-- Settles O53: each of the 256 bytes is decoded. -/
theorem illegalBytesAreTheListed27 : Obligations.IllegalBytesAreTheListed27 := by
  unfold Obligations.IllegalBytesAreTheListed27
  decide

/-- Settles O51: each of the eleven bytes is decoded. -/
theorem spelledOutBytesDecode : Obligations.SpelledOutBytesDecode := by
  unfold Obligations.SpelledOutBytesDecode
  decide

end Sys2Proof.Proofs

/-! ### What a step does (70_reset_and_hazards.md R210, R211) -/

namespace Sys2Proof.Proofs

open Sys2Proof Sys2Proof.Machine

/-! #### The execute step of an instruction -/

/-- The byte that the console's next answer gives an IN (45_io.md R154); 0x00 stands for no valid answer, where no IN
completes. -/
def answeredByte (s : State) : Byte :=
  match s.input with
  | .byte v :: _ => v
  | _ => 0x00

theorem answeredByte_of_input {s : State} {v : Byte} {rest : List ConsoleAnswer} (h : s.input = .byte v :: rest) :
    answeredByte s = v := by
  simp [answeredByte, h]

/-- The state after step 3 of the cycle, before write-back and trace, of an instruction that completes
(70_reset_and_hazards.md R210). `exec_eq_retire` ties it to `exec`. -/
def executed : Instr → State → State
  | .nop, s => s
  | .halt _, s => s.setHalted
  | .page rd, s => s.setDatapage (s.reg rd)
  | .sub rd rs, s => s.setReg rd (subResult (s.reg rd) (s.reg rs))
  | .load rd rs, s => s.setReg rd (s.memRead s.datapage (s.reg rs))
  | .store rd rs, s => s.memWrite s.datapage (s.reg rs) (s.reg rd)
  | .skipz rd, s => s.setPc (if isZero (s.reg rd) then s.pc + 1 else s.pc)
  | .skipnz rd, s => s.setPc (if !isZero (s.reg rd) then s.pc + 1 else s.pc)
  | .skipl rd, s => s.setPc (if isNegative (s.reg rd) then s.pc + 1 else s.pc)
  | .skipge rd, s => s.setPc (if !isNegative (s.reg rd) then s.pc + 1 else s.pc)
  | .jalr rd rs, s => (s.link rd).jumpTo rs
  | .nand rd rs, s => s.setReg rd (nandResult (s.reg rd) (s.reg rs))
  | .add rd rs, s => s.setReg rd (addResult (s.reg rd) (s.reg rs))
  | .inc rd, s => s.setReg rd (addResult (s.reg rd) 1)
  | .dec rd, s => s.setReg rd (subResult (s.reg rd) 1)
  | .out rd, s => s.consoleOut (s.reg rd)
  | .inp rd, s => s.dropInput.setReg rd (answeredByte s)
  | .jmpfar rd rs, s => (s.link rs).loadFarPage.jumpTo rd
  | .push rd, s => (s.setSp (s.sp - 1)).memWrite s.stackpage (s.sp - 1) (s.reg rd)
  | .pop rd, s => (s.setSp (s.sp + 1)).setReg rd (s.memRead s.stackpage s.sp)
  | .stackpage rd, s => s.setStackpage (s.reg rd)
  | .sli rd imm, s => s.setReg rd (sliResult (s.reg rd) imm)

/-- An IN whose next answer is a byte takes it and writes it to its register (45_io.md R154). -/
theorem exec_inp_byte {rd : Reg} {v : Byte} {rest : List ConsoleAnswer} {s : State} (h : s.input = .byte v :: rest) :
    exec (.inp rd) s = retire (.inp rd) (s.dropInput.setReg rd v) := by
  simp [exec, execInp, h]

/-- An IN whose next answer is invalid ends its cycle with the InvalidInput fault (45_io.md R154). -/
theorem exec_inp_invalid {rd : Reg} {rest : List ConsoleAnswer} {s : State} (h : s.input = .invalid :: rest) :
    exec (.inp rd) s = .next (s.dropInput.takeFault .invalidInput (encode (.inp rd))) := by
  simp [exec, execInp, h, raiseFault]

/-- An IN with no answer holds (45_io.md R155). -/
theorem exec_inp_waiting {rd : Reg} {s : State} (h : s.input = []) : exec (.inp rd) s = .next s := by
  simp [exec, execInp, h, hold]

/-- An instruction that can complete retires from the state its execute step leaves. -/
theorem exec_eq_retire {i : Instr} {s : State} (h : CanComplete i s) : exec i s = retire i (executed i s) := by
  cases i with
  | inp rd =>
    obtain ⟨v, rest, hin⟩ := h rd rfl
    rw [exec_inp_byte hin, executed, answeredByte_of_input hin]
  | skipz rd => rw [exec_skipz, State.skipIf_eq]; rfl
  | skipnz rd => rw [exec_skipnz, State.skipIf_eq]; rfl
  | skipl rd => rw [exec_skipl, State.skipIf_eq]; rfl
  | skipge rd => rw [exec_skipge, State.skipIf_eq]; rfl
  | _ => rfl

/-- An instruction that cannot complete is an IN without a valid answer. -/
theorem canComplete_or_inp (i : Instr) (s : State) : CanComplete i s ∨
    ∃ rd, i = .inp rd ∧ (s.input = [] ∨ ∃ rest, s.input = .invalid :: rest) := by
  cases i with
  | inp rd =>
    cases hin : s.input with
    | nil => exact .inr ⟨rd, rfl, .inl rfl⟩
    | cons answer rest =>
      cases answer with
      | byte v => exact .inl fun _ _ => ⟨v, rest, hin⟩
      | invalid => exact .inr ⟨rd, rfl, .inr ⟨rest, rfl⟩⟩
  | _ => exact .inl nofun

/-! #### The result of a step -/

/-- Everything a step from `s` can end in, each with its reason. -/
inductive StepResult (s : State) : State → Prop
  /-- A halted or faulted core runs no cycle (70_reset_and_hazards.md R211). -/
  | stopped (hrun : s.canRun = false) : StepResult s s
  /-- An IN waits for an answer (45_io.md R155). -/
  | waiting (hrun : s.canRun = true) (rd : Reg) (hdec : decode s.fetchByte = .legal (.inp rd)) (hin : s.input = []) :
      StepResult s s
  /-- The fetched instruction completes. -/
  | completed (hrun : s.canRun = true) (i : Instr) (hdec : decode s.fetchByte = .legal i) (hcan : CanComplete i s) :
      StepResult s ((executed i s).writeBack.emitTrace i)
  /-- The fetched byte is illegal (60_exceptions.md R171). -/
  | illegalOpcode (hrun : s.canRun = true) (hbyte : isInstructionByte s.fetchByte = false) :
      StepResult s (s.takeFault .illegalOpcode s.fetchByte)
  /-- An IN got an invalid answer (60_exceptions.md R172). -/
  | invalidInput (hrun : s.canRun = true) (rd : Reg) (hdec : decode s.fetchByte = .legal (.inp rd))
      (rest : List ConsoleAnswer) (hin : s.input = .invalid :: rest) :
      StepResult s (s.dropInput.takeFault .invalidInput s.fetchByte)

/-- A step of a running core that fetched an instruction executes it. -/
theorem step_of_legal {s : State} {i : Instr} (hrun : s.canRun = true) (hdec : decode s.fetchByte = .legal i) :
    step s = exec i s := by
  simp [step, hrun, hdec]

/-- A step of a running core that fetched an illegal byte takes the fault. -/
theorem step_of_illegal {s : State} (hrun : s.canRun = true) (hbyte : isInstructionByte s.fetchByte = false) :
    step s = .next (s.takeFault .illegalOpcode s.fetchByte) := by
  simp [step, hrun, (isInstructionByte_eq_false_iff _).1 hbyte, raiseFault]

/-- A step of a core that cannot run is no cycle. -/
theorem step_of_stopped {s : State} (hrun : s.canRun = false) : step s = .next s := by
  simp [step, hrun, hold]

/-- Every step answers a next state, and it is one of `StepResult`. -/
theorem step_answers (s : State) : ∃ t, step s = .next t ∧ StepResult s t := by
  cases hrun : s.canRun with
  | false => exact ⟨s, step_of_stopped hrun, .stopped hrun⟩
  | true =>
    cases hbyte : isInstructionByte s.fetchByte with
    | false => exact ⟨_, step_of_illegal hrun hbyte, .illegalOpcode hrun hbyte⟩
    | true =>
      obtain ⟨v, hv⟩ := (isInstructionByte_iff _).1 hbyte
      have hdec := decode_of_decodeVariant_some _ v hv
      have hstep := step_of_legal hrun hdec
      rcases canComplete_or_inp (instrOf v _ _ _) s with hcan | ⟨rd, hinp, hin | ⟨rest, hin⟩⟩
      · exact ⟨_, hstep.trans (exec_eq_retire hcan), .completed hrun _ hdec hcan⟩
      · rw [hinp] at hdec hstep
        exact ⟨s, hstep.trans (exec_inp_waiting hin), .waiting hrun rd hdec hin⟩
      · rw [hinp] at hdec hstep
        rw [exec_inp_invalid hin, (decode_eq_legal_iff _ _).1 hdec] at hstep
        exact ⟨_, hstep, .invalidInput hrun rd hdec rest hin⟩

theorem step_result {s t : State} (h : step s = .next t) : StepResult s t := by
  obtain ⟨u, hu, hres⟩ := step_answers s
  rw [hu] at h
  injection h with h
  exact h ▸ hres

/-! #### What an execute step leaves unchanged, and what it changes -/

@[simp] theorem executed_fault (i : Instr) (s : State) : (executed i s).fault = s.fault := by
  cases i <;> rfl

@[simp] theorem executed_trace (i : Instr) (s : State) : (executed i s).trace = s.trace := by
  cases i <;> rfl

theorem executed_halted_changed {i : Instr} {s : State} (h : (executed i s).halted ≠ s.halted) :
    ∃ ignored, i = .halt ignored := by
  cases i with
  | halt ignored => exact ⟨ignored, rfl⟩
  | _ => exact absurd rfl h

/-- Every execute step keeps the canonical form of the memory. -/
theorem executed_mem_wf (i : Instr) {s : State} (h : s.mem.wf = true) : (executed i s).mem.wf = true := by
  cases i with
  | store rd rs => exact State.memWrite_wf s _ _ _ h
  | push rd => exact State.memWrite_wf (s.setSp _) _ _ _ h
  | _ => exact h

/-! #### The invariant -/

theorem decode_inp_any (rd : BitVec 2) : decode (rowByte 0x83 rd 0) = .legal (.inp (Reg.ofIndex rd)) := by
  have hv : ∀ rd : BitVec 2, decodeVariant (rowByte 0x83 rd 0) = some .inp := by decide
  rw [decode_formatRS _ .inp _ _ (by decide) (hv rd)]
  rfl

theorem decode_inp (rd : Reg) : decode (rowByte 0x83 rd.index 0) = .legal (.inp rd) := by
  rw [decode_inp_any, ofIndex_index]

/-- A running core that takes a fault whose record names the fetched byte and its cause rightly keeps the invariant. -/
theorem inv_takeFault {s : State} (hinv : s.Inv) (hrun : s.canRun = true) {cause : FaultCause}
    (hcause : (cause = .illegalOpcode ∧ isInstructionByte s.fetchByte = false) ∨
      (cause = .invalidInput ∧ ∃ rd, s.fetchByte = rowByte 0x83 rd 0)) :
    (s.takeFault cause s.fetchByte).Inv := by
  obtain ⟨hhalted, -⟩ := (State.canRun_iff s).1 hrun
  have hnot : (s.takeFault cause s.fetchByte).halted ≠ true := by simp [hhalted]
  exact {
    memoryCanonical := hinv.memoryCanonical
    notHaltedAndFaulted := fun h => absurd h hnot
    latchLocatesByte := by rintro f ⟨⟩; exact ⟨rfl, rfl, rfl⟩
    latchCause := by rintro f ⟨⟩; exact hcause
    haltedByHalt := fun h => absurd h hnot
    traceShowsState := hinv.traceShowsState
    traceBytesAreInstructions := hinv.traceBytesAreInstructions }

/-- The invariant says nothing of the console input. -/
theorem inv_dropInput {s : State} (hinv : s.Inv) : s.dropInput.Inv := by
  obtain ⟨hmem, hexclusive, hlocates, hcause, hhalt, hshows, hbytes⟩ := hinv
  exact ⟨hmem, hexclusive, hlocates, hcause, hhalt, hshows, hbytes⟩

/-- A completed cycle of a running core keeps the invariant: the latch stays empty, and the record added tells the
instruction and the registers after it. -/
theorem inv_completed {s : State} (hinv : s.Inv) (hrun : s.canRun = true) (i : Instr) :
    ((executed i s).writeBack.emitTrace i).Inv := by
  obtain ⟨hhalted, hfault⟩ := (State.canRun_iff s).1 hrun
  have hnofault : ((executed i s).writeBack.emitTrace i).fault = none := by simp [hfault]
  have hnorecord : ∀ f, ((executed i s).writeBack.emitTrace i).fault ≠ some f := by simp [hfault]
  have hlast : ((executed i s).writeBack.emitTrace i).trace.getLast? = some (traceRecord i (executed i s).writeBack) := by
    simp
  exact {
    memoryCanonical := executed_mem_wf i hinv.memoryCanonical
    notHaltedAndFaulted := fun _ => hnofault
    latchLocatesByte := fun f h => absurd h (hnorecord f)
    latchCause := fun f h => absurd h (hnorecord f)
    haltedByHalt := fun h => by
      have hchanged : (executed i s).halted ≠ s.halted := by
        rw [hhalted]
        exact ne_false_of_eq_true h
      obtain ⟨ignored, rfl⟩ := executed_halted_changed hchanged
      exact ⟨_, hlast, rfl⟩
    traceShowsState := fun r h => by
      rw [hlast] at h
      cases h
      rfl
    traceBytesAreInstructions := fun r h => by
      rw [State.emitTrace_trace, State.writeBack_trace, executed_trace, List.mem_append, List.mem_singleton] at h
      rcases h with hold | rfl
      · exact hinv.traceBytesAreInstructions r hold
      · exact decodeVariant_encode i }

/-- Settles O49, by the result of the step: the two faults keep the invariant by `inv_takeFault`, a completed cycle by
`inv_completed`. -/
theorem stepKeepsTheMachineInvariant : Obligations.StepKeepsTheMachineInvariant := by
  intro s t hinv hstep
  cases step_result hstep with
  | stopped => exact hinv
  | waiting => exact hinv
  | completed hrun i => exact inv_completed hinv hrun i
  | illegalOpcode hrun hbyte => exact inv_takeFault hinv hrun (.inl ⟨rfl, hbyte⟩)
  | invalidInput hrun rd hdec =>
    have hfetch : s.fetchByte = rowByte 0x83 rd.index 0 := decode_legal_inj hdec (decode_inp rd)
    exact inv_takeFault (inv_dropInput hinv) hrun (.inr ⟨rfl, rd.index, hfetch⟩)

/-- Settles O48: at reset the memory is empty, the latch is empty, and there is no trace record. -/
theorem resetMeetsTheMachineInvariant : Obligations.ResetMeetsTheMachineInvariant := by
  exact ⟨State.reset_mem_wf, nofun, nofun, nofun, nofun, nofun, nofun⟩

end Sys2Proof.Proofs

/-! ### The cycle, the two faults, and who may write what (10_state.md, 60_exceptions.md, 70_reset_and_hazards.md) -/

namespace Sys2Proof.Proofs

open Sys2Proof Sys2Proof.Machine

/-! #### The bytes of HALT and JMPFAR -/

theorem decode_halt (ignored : BitVec 2) : decode (rowByte 0x01 ignored 0) = .legal (.halt ignored) := by
  have hv : ∀ rd : BitVec 2, decodeVariant (rowByte 0x01 rd 0) = some .halt := by decide
  rw [decode_formatRS _ .halt _ _ (by decide) (hv ignored)]
  rfl

theorem decode_jmpfar (rd rs : Reg) : decode (rowByte 0x90 rd.index rs.index) = .legal (.jmpfar rd rs) := by
  have hv : ∀ rd rs : BitVec 2, decodeVariant (rowByte 0x90 rd rs) = some .jmpfar := by decide
  rw [decode_formatRR _ .jmpfar _ _ rfl (hv rd.index rs.index)]
  simp [instrOf]

/-! #### The cycle -/

/-- Settles O30: `step_of_legal`, the run state written out. -/
theorem stepRunsTheDecodedInstruction : Obligations.StepRunsTheDecodedInstruction := by
  intro s i hhalted hfault hdec
  exact step_of_legal ((State.canRun_iff s).2 ⟨hhalted, hfault⟩) hdec

/-- Settles O31: the step takes the fault, which changes the latch alone. -/
theorem illegalByteLatchesTheFault : Obligations.IllegalByteLatchesTheFault := by
  intro s hhalted hfault hbyte
  have hstep := step_of_illegal ((State.canRun_iff s).2 ⟨hhalted, hfault⟩) hbyte
  exact ⟨_, hstep, rfl, fun _ => rfl, rfl, rfl, ⟨rfl, rfl, rfl⟩, rfl, ⟨rfl, rfl⟩, rfl, fun _ _ => rfl⟩

/-- The record of a completed cycle, its snapshot written as the state after the cycle. -/
theorem completed_trace (i : Instr) (s : State) : ((executed i s).writeBack.emitTrace i).trace =
    s.trace ++ [traceRecord i ((executed i s).writeBack.emitTrace i)] := by
  rw [State.emitTrace_trace, State.writeBack_trace, executed_trace]
  rfl

/-- Settles O29: an instruction that can complete retires, and the record is `completed_trace`. -/
theorem completedInstructionIsTracedOnce : Obligations.CompletedInstructionIsTracedOnce := by
  intro i s hcan
  exact ⟨_, exec_eq_retire hcan, completed_trace i s⟩

/-- A run of any length answers a next state, as every step does. -/
theorem run_answers (k : Nat) : ∀ s, ∃ t, Reaches k s t := by
  induction k with
  | zero => exact fun s => ⟨s, rfl⟩
  | succ k ih =>
    intro s
    obtain ⟨u, hstep, -⟩ := step_answers s
    obtain ⟨t, hrun⟩ := ih u
    exact ⟨t, (reaches_succ k s t u hstep).2 hrun⟩

/-- Settles O42: `step_answers`, `run_answers`, and the common end of a completed cycle, which keeps the latch. -/
theorem everyRunAnswersANextState : Obligations.EveryRunAnswersANextState := by
  refine ⟨fun k s => ⟨?step, run_answers k s⟩, fun i s hcan => ?latch⟩
  case step =>
    obtain ⟨t, hstep, -⟩ := step_answers s
    exact ⟨t, hstep⟩
  case latch => exact ⟨_, exec_eq_retire hcan, executed_fault i s⟩

/-- Settles O43: only a completed cycle adds a record, and its byte is the fetched one because no two bytes decode
alike. -/
theorem traceRecordsTellTheFetchedByte : Obligations.TraceRecordsTellTheFetchedByte := by
  intro s t hstep
  cases step_result hstep with
  | stopped => exact .inl ⟨rfl, rfl⟩
  | waiting => exact .inl ⟨rfl, rfl⟩
  | completed hrun i hdec =>
    have hbyte : encode i = s.fetchByte := (decode_eq_legal_iff _ _).1 hdec
    exact .inr ⟨_, completed_trace i s, hbyte, decodeVariant_encode i, rfl, rfl, rfl, rfl, executed_fault i s⟩
  | illegalOpcode => exact .inl ⟨rfl, rfl⟩
  | invalidInput => exact .inl ⟨rfl, rfl⟩

/-! #### The two faults -/

/-- The bytes of IN are those that decode to an IN. -/
theorem exists_inp_byte_iff (b : Byte) : (∃ rd, b = rowByte 0x83 rd 0) ↔ ∃ rd, decode b = .legal (.inp rd) := by
  constructor
  · rintro ⟨rd, rfl⟩
    exact ⟨_, decode_inp_any rd⟩
  · rintro ⟨rd, hdec⟩
    exact ⟨rd.index, decode_legal_inj hdec (decode_inp rd)⟩

/-- The latch holds a record whose cause has the code `n` (60_exceptions.md R170). -/
def LatchesCode (n : Nat) (t : State) : Prop := ∃ f, t.fault = some f ∧ f.cause.code = n

theorem not_latchesCode {n : Nat} {t : State} (h : t.fault = none) : ¬ LatchesCode n t := by
  rintro ⟨f, hf, -⟩
  exact nomatch h.symm.trans hf

theorem latchesCode_takeFault (n : Nat) (cause : FaultCause) (byte : Byte) (s : State) :
    LatchesCode n (s.takeFault cause byte) ↔ cause.code = n := by
  simp [LatchesCode]

/-- A core with an empty latch that cannot run is halted. -/
theorem halted_of_not_canRun {s : State} (hrun : s.canRun = false) (hfault : s.fault = none) : s.halted = true := by
  simpa [State.canRun, hfault] using hrun

theorem latchesCode_one_iff {s t : State} (hstep : step s = .next t) (hfault : s.fault = none) :
    LatchesCode 1 t ↔ s.halted = false ∧ isInstructionByte s.fetchByte = false := by
  cases step_result hstep with
  | stopped hrun =>
    exact iff_of_false (not_latchesCode hfault) (by simp [halted_of_not_canRun hrun hfault])
  | waiting _ rd hdec =>
    exact iff_of_false (not_latchesCode hfault) (by simp [isInstructionByte_of_decode hdec])
  | completed _ i hdec =>
    exact iff_of_false (not_latchesCode ((executed_fault i s).trans hfault))
      (by simp [isInstructionByte_of_decode hdec])
  | illegalOpcode hrun hbyte =>
    exact iff_of_true ((latchesCode_takeFault _ _ _ _).2 rfl) ⟨((State.canRun_iff s).1 hrun).1, hbyte⟩
  | invalidInput _ rd hdec =>
    exact iff_of_false (by simp [latchesCode_takeFault, FaultCause.code])
      (by simp [isInstructionByte_of_decode hdec])

theorem latchesCode_two_iff {s t : State} (hstep : step s = .next t) (hfault : s.fault = none) :
    LatchesCode 2 t ↔ s.halted = false ∧ (∃ rd, decode s.fetchByte = .legal (.inp rd)) ∧
      ∃ rest, s.input = .invalid :: rest := by
  cases step_result hstep with
  | stopped hrun =>
    exact iff_of_false (not_latchesCode hfault) (by simp [halted_of_not_canRun hrun hfault])
  | waiting _ _ _ hin =>
    exact iff_of_false (not_latchesCode hfault) (by simp [hin])
  | completed _ i hdec hcan =>
    refine iff_of_false (not_latchesCode ((executed_fault i s).trans hfault)) ?_
    rintro ⟨-, ⟨rd, hinp⟩, rest, hinvalid⟩
    rw [hdec] at hinp
    obtain ⟨v, rest', hbyte⟩ := hcan rd (DecodeResult.legal.inj hinp)
    exact nomatch hinvalid.symm.trans hbyte
  | illegalOpcode _ hbyte =>
    refine iff_of_false (by simp [latchesCode_takeFault, FaultCause.code]) ?_
    rintro ⟨-, ⟨rd, hinp⟩, -⟩
    exact Bool.false_ne_true (hbyte.symm.trans (isInstructionByte_of_decode hinp))
  | invalidInput hrun rd hdec rest hin =>
    exact iff_of_true ((latchesCode_takeFault _ _ _ _).2 rfl)
      ⟨((State.canRun_iff s).1 hrun).1, ⟨rd, hdec⟩, rest, hin⟩

/-- Settles O32: `latchesCode_one_iff` and `latchesCode_two_iff`; there is no third cause. -/
theorem faultsHaveExactlyTwoCauses : Obligations.FaultsHaveExactlyTwoCauses := by
  intro s t hstep hfault
  refine ⟨latchesCode_one_iff hstep hfault, ?inp, fun f _ => ?codes⟩
  case inp =>
    rw [exists_inp_byte_iff]
    exact latchesCode_two_iff hstep hfault
  case codes =>
    cases f.cause with
    | illegalOpcode => exact .inl rfl
    | invalidInput => exact .inr rfl

/-- Settles O33: only the two faulting results of a step leave a record, and both take it from the state before. -/
theorem faultsArePrecise : Obligations.FaultsArePrecise := by
  intro s t f hstep hfault hlatch
  cases step_result hstep with
  | stopped => exact nomatch hfault.symm.trans hlatch
  | waiting => exact nomatch hfault.symm.trans hlatch
  | completed _ i => exact nomatch (hfault.symm.trans (executed_fault i s).symm).trans hlatch
  | illegalOpcode hrun =>
    obtain ⟨hhalted, -⟩ := (State.canRun_iff s).1 hrun
    cases hlatch
    exact ⟨rfl, rfl, rfl, hhalted, fun _ => rfl, rfl, rfl, ⟨rfl, rfl, rfl⟩, rfl, fun _ _ => rfl, rfl, rfl, .inl rfl⟩
  | invalidInput hrun rd hdec rest hin =>
    obtain ⟨hhalted, -⟩ := (State.canRun_iff s).1 hrun
    have hrest : s.dropInput.input = rest := by simp [hin]
    cases hlatch
    exact ⟨rfl, rfl, rfl, hhalted, fun _ => rfl, rfl, rfl, ⟨rfl, rfl, rfl⟩, rfl, fun _ _ => rfl, rfl, rfl,
      .inr ⟨rest, hin, hrest⟩⟩

/-! #### Stopped cores, and the run loop -/

theorem not_canRun_iff (s : State) : s.canRun = false ↔ s.halted = true ∨ s.fault ≠ none := by
  rw [← Bool.not_eq_true, State.canRun_iff]
  cases s.halted <;> simp

/-- A core that cannot run stays where it is. -/
theorem reaches_of_stopped (k : Nat) {s : State} (hrun : s.canRun = false) : Reaches k s s := by
  induction k with
  | zero => rfl
  | succ k ih => exact (reaches_succ k s s s (step_of_stopped hrun)).2 ih

theorem runLoop_of_stopped (k : Nat) {s : State} (hrun : s.canRun = false) : runLoop k s = .next s := by
  cases k <;> simp [runLoop, hrun]

/-- The run loop of a running core begins with a step. -/
theorem runLoop_succ (k : Nat) {s t : State} (hrun : s.canRun = true) (hstep : step s = .next t) :
    runLoop (k + 1) s = runLoop k t := by
  simp [runLoop, hrun, hstep]

/-- A run ends in one state. -/
theorem reaches_unique {k : Nat} {s t u : State} (ht : Reaches k s t) (hu : Reaches k s u) : t = u := by
  injection Eq.trans (Eq.symm ht) hu

/-- The run loop bounded by `k` ends where `k` steps end. -/
theorem runLoop_iff_reaches (k : Nat) : ∀ s t, runLoop k s = .next t ↔ Reaches k s t := by
  induction k with
  | zero => exact fun _ _ => Iff.rfl
  | succ k ih =>
    intro s t
    cases hrun : s.canRun with
    | false =>
      have hstay : Reaches (k + 1) s s := reaches_of_stopped (k + 1) hrun
      rw [runLoop_of_stopped (k + 1) hrun]
      constructor
      · rintro ⟨⟩
        exact hstay
      · exact fun h => congrArg _ (reaches_unique hstay h)
    | true =>
      obtain ⟨u, hstep, -⟩ := step_answers s
      rw [runLoop_succ k hrun hstep, reaches_succ k s t u hstep]
      exact ih u t

/-- Settles O34: a stopped core by `reaches_of_stopped`, the run loop by `runLoop_iff_reaches`. -/
theorem stoppedCoreNeverMoves : Obligations.StoppedCoreNeverMoves := by
  refine ⟨fun k s hstopped => ?stopped, runLoop_iff_reaches, fun k s hhalted hfault => ?running⟩
  case stopped =>
    have hrun := (not_canRun_iff s).2 hstopped
    exact ⟨reaches_of_stopped k hrun, runLoop_of_stopped k hrun⟩
  case running =>
    obtain ⟨t, hstep, -⟩ := step_answers s
    exact ⟨t, hstep, runLoop_succ k ((State.canRun_iff s).2 ⟨hhalted, hfault⟩) hstep⟩

/-! #### Who may write what -/

/-- A part `f` of the state that neither the common end of a cycle, nor a fault, nor the console touches is changed by
a step only if the execute step of the fetched instruction changes it. -/
theorem step_changes_by_execute {α : Type} (f : State → α)
    (hend : ∀ (i : Instr) (u : State), f (u.writeBack.emitTrace i) = f u)
    (hlatch : ∀ (cause : FaultCause) (byte : Byte) (u : State), f (u.takeFault cause byte) = f u)
    (hconsole : ∀ u : State, f u.dropInput = f u)
    {s t : State} (hstep : step s = .next t) (hchange : f t ≠ f s) :
    ∃ i, decode s.fetchByte = .legal i ∧ t = (executed i s).writeBack.emitTrace i ∧ f (executed i s) ≠ f s := by
  cases step_result hstep with
  | stopped => exact absurd rfl hchange
  | waiting => exact absurd rfl hchange
  | completed _ i hdec => exact ⟨i, hdec, rfl, fun h => hchange ((hend i _).trans h)⟩
  | illegalOpcode => exact absurd (hlatch _ _ _) hchange
  | invalidInput => exact absurd ((hlatch _ _ _).trans (hconsole _)) hchange

/-- Settles O35: of the execute steps only HALT's changes `halted`, and a halted core stays where it is. -/
theorem haltedIsSetByHaltOnlyAndKept : Obligations.HaltedIsSetByHaltOnlyAndKept := by
  refine ⟨rfl, fun s t hstep hs ht => ?set, fun k s t hreach hs => ?kept⟩
  case set =>
    have hchange : t.halted ≠ s.halted := by simp [hs, ht]
    obtain ⟨i, hdec, -, hexec⟩ :=
      step_changes_by_execute State.halted (fun _ _ => rfl) (fun _ _ _ => rfl) (fun _ => rfl) hstep hchange
    obtain ⟨ignored, rfl⟩ := executed_halted_changed hexec
    exact ⟨ignored, decode_legal_inj hdec (decode_halt ignored)⟩
  case kept =>
    have hstay : Reaches k s s := reaches_of_stopped k ((not_canRun_iff s).2 (.inl hs))
    exact reaches_unique hstay hreach ▸ hs

theorem executed_codepage_changed {i : Instr} {s : State} (h : (executed i s).codepage ≠ s.codepage) :
    ∃ rd rs, i = .jmpfar rd rs ∧ (executed i s).codepage = (executed i s).reg .c := by
  cases i with
  | jmpfar rd rs => exact ⟨rd, rs, rfl, rfl⟩
  | _ => exact absurd rfl h

/-- Settles O36: of the execute steps only JMPFAR's changes `codepage`. -/
theorem codepageIsWrittenByJmpfarOnly : Obligations.CodepageIsWrittenByJmpfarOnly := by
  intro s t hstep hchange
  obtain ⟨i, hdec, rfl, hexec⟩ :=
    step_changes_by_execute State.codepage (fun _ _ => rfl) (fun _ _ _ => rfl) (fun _ => rfl) hstep hchange
  obtain ⟨rd, rs, rfl, hvalue⟩ := executed_codepage_changed hexec
  exact ⟨⟨rd.index, rs.index, decode_legal_inj hdec (decode_jmpfar rd rs)⟩, hvalue⟩

theorem executed_datapage_changed {i : Instr} {s : State} (h : (executed i s).datapage ≠ s.datapage) :
    ∃ rd, i = .page rd ∧ (executed i s).datapage = s.reg rd := by
  cases i with
  | page rd => exact ⟨rd, rfl, rfl⟩
  | _ => exact absurd rfl h

/-- Settles O37: of the execute steps only PAGE's changes `datapage`. -/
theorem datapageIsWrittenByPageOnly : Obligations.DatapageIsWrittenByPageOnly := by
  intro s t hstep hchange
  obtain ⟨i, hdec, rfl, hexec⟩ :=
    step_changes_by_execute State.datapage (fun _ _ => rfl) (fun _ _ _ => rfl) (fun _ => rfl) hstep hchange
  obtain ⟨rd, rfl, hvalue⟩ := executed_datapage_changed hexec
  exact ⟨rd, decode_legal_inj hdec (decode_page rd), hvalue⟩

theorem executed_stackpage_changed {i : Instr} {s : State} (h : (executed i s).stackpage ≠ s.stackpage) :
    ∃ rd, i = .stackpage rd ∧ (executed i s).stackpage = s.reg rd := by
  cases i with
  | stackpage rd => exact ⟨rd, rfl, rfl⟩
  | _ => exact absurd rfl h

/-- Settles O38: of the execute steps only STACKPAGE's changes `stackpage`. -/
theorem stackpageIsWrittenByStackpageOnly : Obligations.StackpageIsWrittenByStackpageOnly := by
  intro s t hstep hchange
  obtain ⟨i, hdec, rfl, hexec⟩ :=
    step_changes_by_execute State.stackpage (fun _ _ => rfl) (fun _ _ _ => rfl) (fun _ => rfl) hstep hchange
  obtain ⟨rd, rfl, hvalue⟩ := executed_stackpage_changed hexec
  exact ⟨rd, decode_legal_inj hdec (decode_stackpage rd), hvalue⟩

theorem executed_sp_changed {i : Instr} {s : State} (h : (executed i s).sp ≠ s.sp) :
    (∃ rd, i = .push rd ∧ (executed i s).sp = s.sp - 1) ∨ (∃ rd, i = .pop rd ∧ (executed i s).sp = s.sp + 1) := by
  cases i with
  | push rd => exact .inl ⟨rd, rfl, rfl⟩
  | pop rd => exact .inr ⟨rd, rfl, rfl⟩
  | _ => exact absurd rfl h

/-- Settles O39: of the execute steps only those of PUSH and POP change `sp`. -/
theorem stackPointerMovesByPushAndPopOnly : Obligations.StackPointerMovesByPushAndPopOnly := by
  intro s t hstep hchange
  obtain ⟨i, hdec, rfl, hexec⟩ :=
    step_changes_by_execute State.sp (fun _ _ => rfl) (fun _ _ _ => rfl) (fun _ => rfl) hstep hchange
  rcases executed_sp_changed hexec with ⟨rd, rfl, hvalue⟩ | ⟨rd, rfl, hvalue⟩
  · exact .inl ⟨hvalue, rd.index, decode_legal_inj hdec (decode_push rd)⟩
  · exact .inr ⟨hvalue, rd.index, decode_legal_inj hdec (decode_pop rd)⟩

/-- A write changes no cell but its own, which then reads the written value. -/
theorem memWrite_changed {s : State} {q b v p a : Byte} (h : (s.memWrite q b v).memRead p a ≠ s.memRead p a) :
    p = q ∧ a = b ∧ (s.memWrite q b v).memRead p a = v := by
  by_cases hcell : p = q ∧ a = b
  · obtain ⟨rfl, rfl⟩ := hcell
    exact ⟨rfl, rfl, State.memRead_memWrite_same s p a v⟩
  · rw [State.memRead_memWrite, if_neg hcell] at h
    exact absurd rfl h

theorem executed_memRead_changed {i : Instr} {s : State} {p a : Byte}
    (h : (executed i s).memRead p a ≠ s.memRead p a) :
    (∃ rd rs, i = .store rd rs ∧ p = s.datapage ∧ a = s.reg rs ∧ (executed i s).memRead p a = s.reg rd) ∨
    (∃ rd, i = .push rd ∧ p = s.stackpage ∧ a = s.sp - 1 ∧ (executed i s).memRead p a = s.reg rd) := by
  cases i with
  | store rd rs => exact .inl ⟨rd, rs, rfl, memWrite_changed h⟩
  | push rd => exact .inr ⟨rd, rfl, memWrite_changed (s := s.setSp (s.sp - 1)) h⟩
  | _ => exact absurd rfl h

/-- Settles O40: of the execute steps only those of STORE and PUSH write memory, each one cell. -/
theorem memoryIsWrittenByStoreAndPushOnly : Obligations.MemoryIsWrittenByStoreAndPushOnly := by
  intro s t p a hstep hchange
  obtain ⟨i, hdec, rfl, hexec⟩ := step_changes_by_execute (fun u => u.memRead p a)
    (fun _ _ => rfl) (fun _ _ _ => rfl) (fun _ => rfl) hstep hchange
  rcases executed_memRead_changed hexec with ⟨rd, rs, rfl, hp, ha, hvalue⟩ | ⟨rd, rfl, hp, ha, hvalue⟩
  · exact .inl ⟨rd, rs, decode_legal_inj hdec (decode_store rd rs), hp, ha, hvalue⟩
  · exact .inr ⟨rd, decode_legal_inj hdec (decode_push rd), hp, ha, hvalue⟩

/-- A register write changes no register but its own. -/
theorem setReg_changed {s : State} {rd r : Reg} {v : Byte} (h : (s.setReg rd v).reg r ≠ s.reg r) : rd = r := by
  by_contra hne
  rw [State.reg_setReg, if_neg (Ne.symm hne)] at h
  exact h rfl

/-- The table of 10_state.md R11: an execute step changes no register but the destination. -/
theorem executed_reg_changed {i : Instr} {s : State} {r : Reg} (h : (executed i s).reg r ≠ s.reg r) :
    destination i = some r := by
  cases i with
  | sub rd | load rd | nand rd | add rd | inc rd | dec rd | sli rd | jalr rd =>
    exact congrArg some (setReg_changed h)
  | jmpfar rd rs => exact congrArg some (setReg_changed h)
  | inp rd => exact congrArg some (setReg_changed (s := s.dropInput) h)
  | pop rd => exact congrArg some (setReg_changed (s := s.setSp (s.sp + 1)) h)
  | _ => exact absurd rfl h

/-- Settles O41: `executed_reg_changed` for the fetched instruction. -/
theorem registersAreWrittenByTheirInstructionOnly : Obligations.RegistersAreWrittenByTheirInstructionOnly := by
  intro s t r hstep hchange
  obtain ⟨i, hdec, -, hexec⟩ := step_changes_by_execute (fun u => u.reg r)
    (fun _ _ => rfl) (fun _ _ _ => rfl) (fun _ => rfl) hstep hchange
  exact ⟨i, hdec, executed_reg_changed hexec⟩

end Sys2Proof.Proofs

/-! ### HALT, the jumps and the console (40_nop_halt.md, 44_jump.md, 45_io.md) -/

namespace Sys2Proof.Proofs

open Sys2Proof Sys2Proof.Machine

/-! #### The bytes -/

theorem decode_jalr (rd rs : Reg) : decode (rowByte 0x50 rd.index rs.index) = .legal (.jalr rd rs) := by
  have hv : ∀ rd rs : BitVec 2, decodeVariant (rowByte 0x50 rd rs) = some .jalr := by decide
  rw [decode_formatRR _ .jalr _ _ rfl (hv rd.index rs.index)]
  simp [instrOf]

theorem decode_out (rd : Reg) : decode (rowByte 0x82 rd.index 0) = .legal (.out rd) := by
  have hv : ∀ rd : BitVec 2, decodeVariant (rowByte 0x82 rd 0) = some .out := by decide
  rw [decode_formatRS _ .out _ _ (by decide) (hv rd.index)]
  simp [instrOf]

theorem encode_inp (rd : Reg) : encode (.inp rd) = rowByte 0x83 rd.index 0 :=
  (decode_eq_legal_iff _ _).1 (decode_inp rd)

/-! #### HALT -/

theorem exec_halt (ignored : BitVec 2) (s : State) : exec (.halt ignored) s = retire (.halt ignored) s.setHalted := rfl

/-- Settles O2: HALT's cycle sets `halted` and ends as every cycle does; a halted core stays where it is. -/
theorem haltSetsHaltedForGood : Obligations.HaltSetsHaltedForGood := by
  intro ignored s
  refine ⟨decode_halt ignored, s.setHalted.writeBack.emitTrace (.halt ignored), exec_halt ignored s, rfl, ?stays, rfl,
    ?traced, fun _ => rfl, rfl, ⟨rfl, rfl, rfl⟩, rfl, ⟨rfl, rfl⟩, fun _ _ => rfl⟩
  case stays => exact fun k => reaches_of_stopped k ((not_canRun_iff _).2 (.inl rfl))
  case traced => exact ⟨traceRecord (.halt ignored) s.setHalted.writeBack, rfl, rfl, rfl⟩

/-! #### JALR and JMPFAR -/

theorem exec_jalr (rd rs : Reg) (s : State) : exec (.jalr rd rs) s = retire (.jalr rd rs) ((s.link rd).jumpTo rs) := rfl

theorem exec_jmpfar (rd rs : Reg) (s : State) :
    exec (.jmpfar rd rs) s = retire (.jmpfar rd rs) ((s.link rs).loadFarPage.jumpTo rd) := rfl

/-- A register read after the link: the link register holds the return offset, which is what makes a jump through it
fall through (44_jump.md R143). -/
theorem reg_link (s : State) (r q : Reg) : (s.link r).reg q = if q = r then s.pc + 1 else s.reg q :=
  State.reg_setReg s r q (s.pc + 1)

/-- The link writes its register alone. -/
theorem link_registers (s : State) (r : Reg) : (s.link r).reg r = s.pc + 1 ∧ SameRegistersBut r s (s.link r) :=
  ⟨State.reg_setReg_same s r (s.pc + 1), fun q hq => by rw [reg_link, if_neg hq]⟩

/-- A cycle that ends in a jump: `pc` is the target, and nothing else moves (44_jump.md R146). -/
theorem retire_jumpTo (i : Instr) (s : State) (r : Reg) : ∃ t, retire i (s.jumpTo r) = .next t ∧ t.pc = s.reg r ∧
    SameRegisters s t ∧ SameControl s t ∧ SameMemory s t := by
  obtain ⟨t, hret, hpc, hframe⟩ := retire_frame i (s.jumpTo r)
  exact ⟨t, hret, hpc.trans (beforeTarget_add_one (s.reg r)), hframe⟩

/-- Settles O16: JALR's cycle is the link and a jump, whose target is read after the link. -/
theorem jalrLinksThenJumps : Obligations.JalrLinksThenJumps := by
  intro rd rs s
  obtain ⟨t, hret, hpc, hregs, hcontrol, hmem⟩ := retire_jumpTo (.jalr rd rs) (s.link rd) rs
  obtain ⟨hlink, hothers⟩ := link_registers s rd
  exact ⟨decode_jalr rd rs, t, (exec_jalr rd rs s).trans hret, (hregs rd).trans hlink,
    hpc.trans (reg_link s rd rs), fun r hr => (hregs r).trans (hothers r hr), hcontrol, hmem⟩

/-- Settles O17: JMPFAR's cycle is the link, the load of `codepage`, and a jump, page and target both read after the
link. -/
theorem jmpfarLinksThenSwitchesPageThenJumps : Obligations.JmpfarLinksThenSwitchesPageThenJumps := by
  intro rd rs s
  obtain ⟨t, hret, hpc, hregs, ⟨hsp, ⟨hcp, hdp, hstp⟩, hrun, hcon⟩, hmem⟩ :=
    retire_jumpTo (.jmpfar rd rs) (s.link rs).loadFarPage rd
  obtain ⟨hlink, hothers⟩ := link_registers s rs
  have hpage : t.codepage = if rs = .c then s.pc + 1 else s.reg .c := by
    rw [hcp, ← if_congr (eq_comm (a := Reg.c)) rfl rfl]
    exact reg_link s rs .c
  exact ⟨decode_jmpfar rd rs, t, (exec_jmpfar rd rs s).trans hret, (hregs rs).trans hlink, hpage,
    hpc.trans (reg_link s rs rd), fun r hr => (hregs r).trans (hothers r hr), hsp, hdp, hstp, hrun, hcon, hmem⟩

/-- Settles O27: by `jalrLinksThenJumps` the first jump saves the offset after it, and the second, its link being another
register, jumps to the saved one. -/
theorem jalrRoundTripReturns : Obligations.JalrRoundTripReturns := by
  intro rd rs back link s
  obtain ⟨-, t, hjump, hsaved, -⟩ := jalrLinksThenJumps rd rs s
  refine ⟨t, hjump, fun u hback hne => ?_⟩
  obtain ⟨-, w, hreturn, -, hpc, -, ⟨-, ⟨hcp, -⟩, -⟩, -⟩ := jalrLinksThenJumps link back u
  rw [if_neg hne.symm, hback, hsaved] at hpc
  exact ⟨w, hreturn, hpc, hcp⟩

/-! #### OUT and IN -/

theorem exec_out (rd : Reg) (s : State) : exec (.out rd) s = retire (.out rd) (s.consoleOut (s.reg rd)) := rfl

/-- Settles O18: OUT's cycle sends one value and ends as every cycle does. -/
theorem outSendsTheRegister : Obligations.OutSendsTheRegister := by
  intro rd s
  obtain ⟨t, hret, hpc, hregs, ⟨hsp, hpages, hrun, hin, hout⟩, hmem⟩ := retire_frame (.out rd) (s.consoleOut (s.reg rd))
  exact ⟨decode_out rd, t, (exec_out rd s).trans hret, hout, hin, hpc, hregs, hsp, hpages, hrun, hmem⟩

/-- Settles O19: with a valid answer IN's cycle takes it and writes one register. -/
theorem inStoresAValidByte : Obligations.InStoresAValidByte := by
  intro rd v rest s hinput
  obtain ⟨t, hret, hreg, hothers, hpc, ⟨hsp, hpages, hrun, hin, hout⟩, hmem⟩ :=
    retire_setReg (.inp rd) s.dropInput rd v
  have hrest : s.dropInput.input = rest := by simp [hinput]
  exact ⟨decode_inp rd, t, (exec_inp_byte hinput).trans hret, hreg, hin.trans hrest, hout, hpc, hothers, hsp, hpages,
    hrun, hmem⟩

/-- Settles O20: with an invalid answer IN takes it and then the fault, whose byte is the IN's own. -/
theorem invalidInputLatchesTheFault : Obligations.InvalidInputLatchesTheFault := by
  intro rd rest s hinput
  have hexec := exec_inp_invalid (rd := rd) hinput
  have hrest : s.dropInput.input = rest := by simp [hinput]
  rw [encode_inp] at hexec
  exact ⟨_, hexec, rfl, hrest, rfl, rfl, rfl, rfl, fun _ => rfl, rfl, ⟨rfl, rfl, rfl⟩, fun _ _ => rfl⟩

/-- Settles O21: without an answer the cycle is `hold`. -/
theorem inHoldsUntilAnswered : Obligations.InHoldsUntilAnswered := by
  intro rd s hinput
  exact exec_inp_waiting hinput

end Sys2Proof.Proofs

/-! ### Programs of a few instructions (20_memory.md section 4, 42_alu.md R116, 43_skip.md R135) -/

namespace Sys2Proof.Proofs

open Sys2Proof Sys2Proof.Machine

/-- Settles O28: the first SLI leaves `hi` in the low nibble, and the second moves it up; what was above it is lost modulo
256. -/
theorem twoSliLoadAnyConstant : Obligations.TwoSliLoadAnyConstant := by
  intro rd hi lo s
  obtain ⟨-, t, hfirst, hthi, -⟩ := sliShiftsInTheImmediate rd hi s
  obtain ⟨-, w, hsecond, hwlo, -⟩ := sliShiftsInTheImmediate rd lo t
  have hbound := hi.isLt
  exact ⟨t, w, hfirst, hsecond, by omega⟩

/-! #### Taken skips -/

/-- The cycle of a skip that is taken adds 1 to `pc` before the common end. -/
theorem exec_of_taken {i : Instr} {s : State} {taken : Bool} (hexec : exec i s = retire i (s.skipIf taken))
    (htaken : taken = true) : exec i s = retire i (s.setPc (s.pc + 1)) := by
  rw [hexec, htaken]
  rfl

/-- A byte that is a skip whose condition holds decodes to an instruction that skips, in every state with the same
registers. -/
theorem decode_taken_skip {s : State} {rd : Reg}
    (h : (s.fetchByte = rowByte 0x40 rd.index 0 ∧ s.reg rd = 0x00) ∨
      (s.fetchByte = rowByte 0x41 rd.index 0 ∧ s.reg rd ≠ 0x00) ∨
      (s.fetchByte = rowByte 0x42 rd.index 0 ∧ 0x80 ≤ (s.reg rd).toNat) ∨
      (s.fetchByte = rowByte 0x43 rd.index 0 ∧ (s.reg rd).toNat < 0x80)) :
    ∃ i, decode s.fetchByte = .legal i ∧
      ∀ u, SameRegisters s u → exec i u = retire i (u.setPc (u.pc + 1)) := by
  rcases h with ⟨hbyte, hcond⟩ | ⟨hbyte, hcond⟩ | ⟨hbyte, hcond⟩ | ⟨hbyte, hcond⟩
  · exact ⟨.skipz rd, hbyte ▸ decode_skipz rd,
      fun u hu => exec_of_taken (exec_skipz rd u) ((isZero_iff _).2 ((hu rd).trans hcond))⟩
  · exact ⟨.skipnz rd, hbyte ▸ decode_skipnz rd,
      fun u hu => exec_of_taken (exec_skipnz rd u) ((not_isZero_iff _).2 (ne_of_eq_of_ne (hu rd) hcond))⟩
  · exact ⟨.skipl rd, hbyte ▸ decode_skipl rd,
      fun u hu => exec_of_taken (exec_skipl rd u) ((isNegative_iff _).2 (hu rd ▸ hcond))⟩
  · exact ⟨.skipge rd, hbyte ▸ decode_skipge rd,
      fun u hu => exec_of_taken (exec_skipge rd u) ((not_isNegative_iff _).2 (hu rd ▸ hcond))⟩

/-- The next cell of the page is another cell, at the end of the page too. -/
theorem fetchByte_memWrite_next (s : State) (v : Byte) :
    (s.memWrite s.codepage (s.pc + 1) v).fetchByte = s.fetchByte := by
  have hother : s.pc ≠ s.pc + 1 := by bv_omega
  exact (State.memRead_memWrite s s.codepage (s.pc + 1) v s.codepage s.pc).trans (if_neg fun h => hother h.2)

/-- Settles O44: the step fetches the same byte with any value in the next cell, and the cycle of a taken skip reads no
memory. -/
theorem skippedCellHasNoEffect : Obligations.SkippedCellHasNoEffect := by
  intro s rd v hhalted hfault hskip
  obtain ⟨i, hdec, hexec⟩ := decode_taken_skip hskip
  have hrun : s.canRun = true := (State.canRun_iff s).2 ⟨hhalted, hfault⟩
  have hstep : step s = retire i (s.setPc (s.pc + 1)) := (step_of_legal hrun hdec).trans (hexec s fun _ => rfl)
  have hdec' : decode (s.memWrite s.codepage (s.pc + 1) v).fetchByte = .legal i := by
    rw [fetchByte_memWrite_next, hdec]
  have hstep' : step (s.memWrite s.codepage (s.pc + 1) v) =
      retire i ((s.memWrite s.codepage (s.pc + 1) v).setPc (s.pc + 1)) :=
    (step_of_legal (s := s.memWrite s.codepage (s.pc + 1) v) hrun hdec').trans (hexec _ fun _ => rfl)
  exact ⟨_, hstep, BitVec.add_assoc s.pc 1 1, hfault, hstep'⟩

/-! #### Self-modifying code -/

/-- Settles O45: by `storeWritesTheDataPage` the stored cell is the one that the next fetch reads, and the core still
runs. -/
theorem storeIsSeenByTheNextFetch : Obligations.StoreIsSeenByTheNextFetch := by
  intro rd rs s hhalted hfault hbyte hpage hnext
  obtain ⟨hdec, t, hexec, hcell, -, -, hpc, -, ⟨hcp, -⟩, ⟨hthalted, htfault⟩, -⟩ := storeWritesTheDataPage rd rs s
  have hstep : step s = .next t :=
    (step_of_legal ((State.canRun_iff s).2 ⟨hhalted, hfault⟩) (hbyte ▸ hdec)).trans hexec
  have hfetch : t.fetchByte = s.reg rd := calc
    t.fetchByte = t.memRead s.codepage (s.pc + 1) := by rw [State.fetchByte, hcp, hpc]
    _ = t.memRead s.datapage (s.reg rs) := by rw [hpage, hnext]
    _ = s.reg rd := hcell
  have htrun : t.canRun = true := (State.canRun_iff t).2 ⟨hthalted.trans hhalted, htfault.trans hfault⟩
  exact ⟨t, hstep, hfetch, fun i hi => step_of_legal htrun (hfetch.symm ▸ hi)⟩

/-! #### A page of NOPs -/

/-- A step of a running core on the byte 0x00 moves `pc` and records the trace. -/
theorem step_on_zero {s : State} (hrun : s.canRun = true) (hbyte : s.fetchByte = 0x00) :
    step s = .next { s with pc := s.pc + 1, trace := s.trace ++ [traceRecord .nop s.writeBack] } := by
  have hdec : decode s.fetchByte = .legal .nop := by
    rw [hbyte]
    rfl
  rw [step_of_legal hrun hdec]
  rfl

/-- On a page of zeros `k` steps move `pc` by `k` and record `k` times, and do nothing else. -/
theorem reaches_on_zeros (k : Nat) : ∀ s : State, s.canRun = true → (∀ a, s.memRead s.codepage a = 0x00) →
    ∃ trace, Reaches k s { s with pc := s.pc + BitVec.ofNat 8 k, trace := trace } ∧
      trace.length = s.trace.length + k := by
  induction k with
  | zero =>
    intro s _ _
    exact ⟨s.trace, by rw [reaches_zero, BitVec.add_zero], rfl⟩
  | succ k ih =>
    intro s hrun hzeros
    obtain ⟨trace, hreach, hlength⟩ :=
      ih { s with pc := s.pc + 1, trace := s.trace ++ [traceRecord .nop s.writeBack] } hrun hzeros
    have hpc : s.pc + BitVec.ofNat 8 (k + 1) = s.pc + 1 + BitVec.ofNat 8 k := by
      rw [BitVec.add_assoc, Nat.add_comm k 1, BitVec.ofNat_add]
      rfl
    refine ⟨trace, (reaches_succ k s _ _ (step_on_zero hrun (hzeros s.pc))).2 (hpc ▸ hreach), ?length⟩
    case length =>
      rw [hlength, List.length_append, List.length_singleton]
      omega

/-- Settles O46: `reaches_on_zeros`. -/
theorem pageOfNopsNeverEnds : Obligations.PageOfNopsNeverEnds := by
  intro k s hhalted hfault hzeros
  obtain ⟨trace, hreach, hlength⟩ := reaches_on_zeros k s ((State.canRun_iff s).2 ⟨hhalted, hfault⟩) hzeros
  exact ⟨_, hreach, hhalted, hfault, rfl, fun _ => rfl, rfl, ⟨rfl, rfl, rfl⟩, ⟨rfl, rfl⟩, fun _ _ => rfl, hlength⟩

end Sys2Proof.Proofs

/-! ### Memories in canonical form (20_memory.md R40; log entry 21) -/

namespace Sys2Proof.Proofs

open Sys2Proof Sys2Proof.Machine

theorem wfFrom_cons_iff (lo k : Nat) (v : Byte) (m : Memory) : Memory.wfFrom lo ((k, v) :: m) = true ↔
    lo ≤ k ∧ k < 65536 ∧ v ≠ unwrittenByte ∧ Memory.wfFrom (k + 1) m = true := by
  simp [Memory.wfFrom, and_assoc]

@[simp] theorem read_cons_same (k : Nat) (v : Byte) (m : Memory) : Memory.read ((k, v) :: m) k = v := by
  simp [Memory.read]

theorem read_cons_of_lt (k n : Nat) (v : Byte) (m : Memory) (h : k < n) : Memory.read ((k, v) :: m) n = m.read n := by
  simp [Memory.read, Nat.lt_asymm h, Nat.ne_of_gt h]

/-- In canonical form from `lo` on, nothing is listed below `lo`. -/
theorem read_below_wfFrom {lo n : Nat} {m : Memory} (hm : Memory.wfFrom lo m = true) (hn : n < lo) :
    m.read n = unwrittenByte := by
  cases m with
  | nil => rfl
  | cons e m =>
    obtain ⟨k, v⟩ := e
    obtain ⟨hlo, -⟩ := (wfFrom_cons_iff lo k v m).1 hm
    exact Memory.read_of_lt k n v m (Nat.lt_of_lt_of_le hn hlo)

/-- A memory that reads like a canonical list holds the list's first entry, whose value tells it from an unlisted
cell. -/
theorem read_head_of_alike {lo k : Nat} {v : Byte} {m m' : Memory} (hm : Memory.wfFrom lo ((k, v) :: m) = true)
    (hread : ∀ n < 65536, Memory.read ((k, v) :: m) n = m'.read n) : m'.read k = v ∧ v ≠ unwrittenByte := by
  obtain ⟨-, hk, hv, -⟩ := (wfFrom_cons_iff lo k v m).1 hm
  exact ⟨(hread k hk).symm.trans (read_cons_same k v m), hv⟩

/-- Canonical lists that read alike in the 65,536 cells are equal: their first entries have the same index, because the
smaller one would be unlisted in the other list, hence the same value, and so on for the rest. -/
theorem eq_of_read_eq (m : Memory) : ∀ (lo : Nat) (m' : Memory), Memory.wfFrom lo m = true →
    Memory.wfFrom lo m' = true → (∀ n < 65536, m.read n = m'.read n) → m = m' := by
  induction m with
  | nil =>
    intro lo m' _ hm' hread
    cases m' with
    | nil => rfl
    | cons e' m' =>
      obtain ⟨hvalue, hne⟩ := read_head_of_alike hm' fun n hn => (hread n hn).symm
      exact absurd hvalue.symm hne
  | cons e m ih =>
    intro lo m' hm hm' hread
    obtain ⟨k, v⟩ := e
    obtain ⟨hvalue, hne⟩ := read_head_of_alike hm hread
    cases m' with
    | nil => exact absurd hvalue.symm hne
    | cons e' m' =>
      obtain ⟨k', v'⟩ := e'
      obtain ⟨hvalue', hne'⟩ := read_head_of_alike hm' fun n hn => (hread n hn).symm
      rcases Nat.lt_trichotomy k k' with hlt | rfl | hgt
      · exact absurd (hvalue.symm.trans (Memory.read_of_lt k' k v' m' hlt)) hne
      · have hv : v = v' := hvalue.symm.trans (read_cons_same k v' m')
        obtain ⟨-, -, -, htail⟩ := (wfFrom_cons_iff lo k v m).1 hm
        obtain ⟨-, -, -, htail'⟩ := (wfFrom_cons_iff lo k v' m').1 hm'
        have hrest : ∀ n < 65536, Memory.read m n = Memory.read m' n := by
          intro n hn
          by_cases hnk : n < k + 1
          · rw [read_below_wfFrom htail hnk, read_below_wfFrom htail' hnk]
          · have hlt : k < n := by omega
            rw [← read_cons_of_lt k n v m hlt, ← read_cons_of_lt k n v' m' hlt]
            exact hread n hn
        rw [hv, ih (k + 1) m' htail htail' hrest]
      · exact absurd (hvalue'.symm.trans (Memory.read_of_lt k k' v m hgt)) hne'

/-- Every index below 65,536 is that of a cell. -/
theorem exists_cellIndex_eq {n : Nat} (h : n < 65536) : ∃ p a, cellIndex p a = n := by
  refine ⟨BitVec.ofNat 8 (n / 256), BitVec.ofNat 8 n, ?_⟩
  simp only [cellIndex, BitVec.toNat_ofNat]
  omega

/-- Settles O50: reading alike at every page and offset is reading alike at every index, and `eq_of_read_eq`. -/
theorem memoriesThatReadAlikeAreEqual : Obligations.MemoriesThatReadAlikeAreEqual := by
  intro s t hs ht hsame
  refine eq_of_read_eq s.mem 0 t.mem hs ht fun n hn => ?_
  obtain ⟨p, a, rfl⟩ := exists_cellIndex_eq hn
  exact (hsame p a).symm

end Sys2Proof.Proofs

/-! ### The host's operations (60_exceptions.md R181 to R187, 70_reset_and_hazards.md R200 to R212) -/

namespace Sys2Proof.Proofs

open Sys2Proof Sys2Proof.Machine

/-- Inside a run every host command is turned away (20_memory.md R53). -/
theorem command_in_run {x : Session} (h : x.inRun = true) (c : HostCommand) : x.command c = .error .coreInRun := by
  simp [Session.command, h]

/-! #### Batches -/

theorem writeMacro_eq (s : State) (batch : List Byte) : s.writeMacro batch =
    if batch.length % 3 = 0 then .ok (s.pokeAll batch) else .error .malformedWriteBatch := by
  simp [State.writeMacro, writeBatchWellFormed]

theorem readMacro_eq (s : State) (batch : List Byte) : s.readMacro batch =
    if batch.length % 2 = 0 then .ok (s.peekAll batch) else .error .malformedReadBatch := by
  simp [State.readMacro, readBatchWellFormed]

/-- A triple after a whole write batch is written after it. -/
theorem pokeAll_append_triple (p a v : Byte) : ∀ (batch : List Byte) (s : State), batch.length % 3 = 0 →
    s.pokeAll (batch ++ [p, a, v]) = (s.pokeAll batch).poke p a v
  | [], _, _ => rfl
  | [_], _, h => nomatch h
  | [_, _], _, h => nomatch h
  | q :: b :: w :: rest, s, h => by
    have hrest : rest.length % 3 = 0 := (Nat.add_mod_right rest.length 3).symm.trans h
    exact pokeAll_append_triple p a v rest (s.poke q b w) hrest

/-- A pair after a whole read batch is reported after it. -/
theorem peekAll_append_pair (s : State) (p a : Byte) : ∀ batch : List Byte, batch.length % 2 = 0 →
    s.peekAll (batch ++ [p, a]) = s.peekAll batch ++ [s.peek p a]
  | [], _ => rfl
  | [_], h => nomatch h
  | q :: b :: rest, h => by
    have hrest : rest.length % 2 = 0 := (Nat.add_mod_right rest.length 2).symm.trans h
    exact congrArg (s.peek q b :: ·) (peekAll_append_pair s p a rest hrest)

/-- Settles O56: `writeMacro_eq` and `pokeAll_append_triple`; a batch changes memory only by `State.pokeAll_frame`. -/
theorem writeMacroIsCheckedThenOrdered : Obligations.WriteMacroIsCheckedThenOrdered := by
  intro s batch p a v
  refine ⟨fun hlen => ?refused, rfl, fun hlen => ?ordered, fun x hx => command_in_run hx _⟩
  case refused => rw [writeMacro_eq, if_neg hlen]
  case ordered =>
    have hlen' : (batch ++ [p, a, v]).length % 3 = 0 := by simpa using hlen
    obtain ⟨m, hframe⟩ := State.pokeAll_frame s (batch ++ [p, a, v])
    have hsame : { s.pokeAll (batch ++ [p, a, v]) with mem := s.mem } = s := by rw [hframe]
    rw [pokeAll_append_triple p a v batch s hlen] at hsame
    refine ⟨s.pokeAll batch, (s.pokeAll batch).poke p a v, ?_, ?_, ?written, ?others, hsame⟩
    · rw [writeMacro_eq, if_pos hlen]
    · rw [writeMacro_eq, if_pos hlen', pokeAll_append_triple p a v batch s hlen]
    case written => exact State.memRead_memWrite_same (s.pokeAll batch) p a v
    case others => exact fun q b hqb => (State.memRead_memWrite (s.pokeAll batch) p a v q b).trans (if_neg hqb)

/-- Settles O57: `readMacro_eq` and `peekAll_append_pair`. -/
theorem readMacroIsCheckedThenOrdered : Obligations.ReadMacroIsCheckedThenOrdered := by
  intro s batch p a
  refine ⟨fun hlen => ?refused, rfl, fun hlen => ?ordered, fun x hx => command_in_run hx _⟩
  case refused => rw [readMacro_eq, if_neg hlen]
  case ordered =>
    have hlen' : (batch ++ [p, a]).length % 2 = 0 := by simpa using hlen
    have hread : s.readMacro batch = .ok (s.peekAll batch) := by rw [readMacro_eq, if_pos hlen]
    refine ⟨s.peekAll batch, hread, ?appended, ?command⟩
    case appended =>
      rw [readMacro_eq, if_pos hlen', peekAll_append_pair s p a batch hlen]
      rfl
    case command => simp [Session.command, hread]

/-! #### Program load -/

/-- Byte `i` of a load that starts on page `p0` is sent to the cell `p:a` (70_reset_and_hazards.md R207). -/
def SentTo (advance : Bool) (p0 : Byte) (i : Nat) (p a : Byte) : Prop :=
  p = loadPage advance p0 i ∧ a = loadOffset i

/-- A cell that no byte is sent to keeps its value. -/
theorem memRead_loadFrom_unsent (advance : Bool) (p0 p a : Byte) (program : List Byte) : ∀ (i : Nat) (s : State),
    (∀ j < program.length, ¬ SentTo advance p0 (i + j) p a) →
    (State.loadFrom advance p0 i program s).memRead p a = s.memRead p a := by
  induction program with
  | nil => exact fun _ _ _ => rfl
  | cons b rest ih =>
    intro i s hunsent
    have hfirst : ¬ SentTo advance p0 i p a := hunsent 0 (Nat.succ_pos _)
    have hrest : ∀ j < rest.length, ¬ SentTo advance p0 (i + 1 + j) p a := fun j hj => by
      rw [Nat.add_right_comm]
      exact hunsent (j + 1) (Nat.succ_lt_succ hj)
    rw [State.loadFrom, ih (i + 1) _ hrest, State.memRead_memWrite]
    exact if_neg hfirst

/-- The last byte sent to a cell is what the cell reads. -/
theorem memRead_loadFrom_last (advance : Bool) (p0 p a : Byte) (program : List Byte) :
    ∀ (i : Nat) (s : State) (j : Nat) (h : j < program.length), SentTo advance p0 (i + j) p a →
    (∀ l, j < l → l < program.length → ¬ SentTo advance p0 (i + l) p a) →
    (State.loadFrom advance p0 i program s).memRead p a = program[j] := by
  induction program with
  | nil => exact fun _ _ _ h => nomatch h
  | cons b rest ih =>
    intro i s j h hsent hlast
    have hlater : ∀ l < rest.length, j < l + 1 → ¬ SentTo advance p0 (i + 1 + l) p a := fun l hl hjl => by
      rw [Nat.add_right_comm]
      exact hlast (l + 1) hjl (Nat.succ_lt_succ hl)
    cases j with
    | zero =>
      obtain ⟨rfl, rfl⟩ := hsent
      rw [State.loadFrom, memRead_loadFrom_unsent _ _ _ _ rest (i + 1) _ fun l hl => hlater l hl (Nat.succ_pos l)]
      exact State.memRead_memWrite_same s _ _ b
    | succ j =>
      rw [← Nat.add_assoc, Nat.add_right_comm] at hsent
      exact ih (i + 1) _ j (Nat.lt_of_succ_lt_succ h) hsent fun l hjl hl => hlater l hl (Nat.succ_lt_succ hjl)

/-- Settles O59: `memRead_loadFrom_last` and `memRead_loadFrom_unsent` from byte 0 on; a load changes memory only by
`State.loadFrom_frame`. -/
theorem longProgramLoadFollowsTheParameter : Obligations.LongProgramLoadFollowsTheParameter := by
  intro s advance program p a
  refine ⟨fun i h hsent hlast => ?last, fun hunsent => ?unsent, ?frame⟩
  case last =>
    exact memRead_loadFrom_last advance s.codepage p a program 0 s i h (by rwa [Nat.zero_add])
      fun l hil hl => by rw [Nat.zero_add]; exact hlast l hil hl
  case unsent =>
    exact memRead_loadFrom_unsent advance s.codepage p a program 0 s
      fun j hj => by rw [Nat.zero_add]; exact hunsent j hj
  case frame =>
    obtain ⟨m, hframe⟩ := State.loadFrom_frame advance s.codepage program 0 s
    rw [State.loadProgramWith, hframe]

/-- The first 256 bytes of a program stay on its first page, whatever the parameter is. -/
theorem loadPage_of_lt (advance : Bool) (p0 : Byte) {i : Nat} (h : i < 256) : loadPage advance p0 i = p0 := by
  cases advance <;> simp [loadPage, Nat.div_eq_of_lt h]

/-- Settles O58: of a program of at most 256 bytes each goes to the first page and to an offset of its own, so that each
is the last one sent to its cell. -/
theorem programLoadFillsTheCodePage : Obligations.ProgramLoadFillsTheCodePage := by
  intro s program hlength
  have hload := longProgramLoadFollowsTheParameter s Config.loadPageAdvance program
  obtain ⟨-, -, hframe⟩ := hload 0 0
  refine ⟨fun i h => ?loaded, fun p a hcell => ?others, hframe, fun x hx => command_in_run hx _⟩
  case loaded =>
    obtain ⟨hlast, -⟩ := hload s.codepage (BitVec.ofNat 8 i)
    refine hlast i h ⟨(loadPage_of_lt _ _ (by omega)).symm, rfl⟩ fun j hij hj hsent => ?_
    have hoffset := congrArg BitVec.toNat hsent.2
    simp only [BitVec.toNat_ofNat] at hoffset
    omega
  case others =>
    obtain ⟨-, hunsent, -⟩ := hload p a
    refine hunsent fun j hj hsent => hcell ?_
    obtain ⟨hpage, rfl⟩ := hsent
    refine ⟨hpage.trans (loadPage_of_lt _ _ (by omega)), ?_⟩
    rw [BitVec.toNat_ofNat]
    omega

/-! #### Reset -/

/-- The host's reset leaves the specified state, whatever was before. -/
theorem atReset_hostReset (s : State) : AtReset s.hostReset := by
  refine ⟨fun r => ?registers, rfl, rfl, rfl, rfl, rfl, rfl, rfl, fun _ _ => rfl, rfl⟩
  case registers => cases r <;> rfl

/-- Settles O47: `atReset_hostReset`, and `State.reset` is its own reset; of the commands that are taken only a reset
touches `halted` or the latch. -/
theorem resetLeavesTheSpecifiedState : Obligations.ResetLeavesTheSpecifiedState := by
  refine ⟨atReset_hostReset State.reset, fun s => ⟨atReset_hostReset s, ⟨rfl, rfl⟩, rfl, rfl⟩, ?flags⟩
  case flags =>
    intro x y c out hcommand hne
    obtain ⟨-, ⟨hreset, -⟩ | ⟨-, rfl⟩ | ⟨-, -, m, rfl⟩⟩ := Session.command_cases x y c out hcommand
    · exact absurd hreset hne
    · exact ⟨rfl, rfl⟩
    · exact ⟨rfl, rfl⟩

/-! #### Runs -/

/-- The run state Running is the run loop's test (70_reset_and_hazards.md R212). -/
theorem runState_eq_running_iff (s : State) : s.runState = .running ↔ s.canRun = true := by
  rw [State.canRun_iff, State.runState]
  cases s.halted <;> cases s.fault <;> simp

/-- A cycle of a run is one step of the core, and the run goes on while the core can run. -/
theorem cycle_in_run {x : Session} {t : State} (hx : x.inRun = true) (hstep : step x.core = .next t) :
    x.cycle = ⟨t, t.canRun⟩ := by
  simp [Session.cycle, hx, hstep]

/-- Settles O60: `command_in_run` and `cycle_in_run` inside a run; outside one `Session.command_cases` tells what a start
does. -/
theorem hostAndRunNeverInterleave : Obligations.HostAndRunNeverInterleave := by
  intro x
  refine ⟨command_in_run, fun hx => ?cycle, fun hx => ?idle, fun hx => ?taken, fun y out hstart => ?begins⟩
  case cycle =>
    obtain ⟨t, hstep, -⟩ := step_answers x.core
    rw [cycle_in_run hx hstep]
    exact ⟨t, hstep, rfl, not_canRun_iff t⟩
  case idle => simp [Session.cycle, hx]
  case taken => exact ⟨{ x with inRun := x.core.canRun }, by simp [Session.command, hx]⟩
  case begins =>
    obtain ⟨-, ⟨hreset, -⟩ | ⟨-, rfl⟩ | ⟨-, hne, -⟩⟩ := Session.command_cases x y .start out hstart
    · exact nomatch hreset
    · exact ⟨rfl, (runState_eq_running_iff x.core).symm⟩
    · exact absurd rfl hne

end Sys2Proof.Proofs
